-- ==== Sys2Proof/Word.lean ====
section
/-! DEFINITION. The word types of the block (spec/00_scope.md R8): every register, flag and byte is one of these. -/

namespace Sys2Proof

/-- `u16`: the tick counter, the latch and the tracker's registers; arithmetic on it is modulo 0x10000 (R8). -/
abbrev U16 := BitVec 16

/-- `u8` or "byte": a buffer location, a byte on the wire, an event code (R8, R77). -/
abbrev Byte := BitVec 8

/-- `u5`: the transmitter's cursor (R28). -/
abbrev U5 := BitVec 5

end Sys2Proof
end

