-- ==== Sys2Proof/Config.lean ====
section
/-! DEFINITION. The implementation parameters of spec/00_scope.md R5, at the values the spec gives them.
None is a free value: the spec leaves no value open (spec/93_implementation_defined.md). -/

namespace Sys2Proof.Config

/-- `TICK_RESET`, the reset value of `tickCounter` (R20, R35).
UNVERIFIED: decided by the spec where its source is silent (D3), unsafe for claims about a counter that starts
elsewhere; assumption log 5. -/
def tickReset : U16 := 0x0000#16

/-- `DELTA_WRAP_CONST`, the constant of the wrap branch of the delta (R122, conflict C1, D21); assumption log 23. -/
def deltaWrapConst : U16 := 0xFFFF#16

/-- `TERM`, the internal terminator (R74, D15). It differs from the 14 message byte values. -/
def term : Byte := 0x00#8

/-- `BUF_LEN`, the number of bytes of the message buffer (R27, R50, D11). -/
def bufLen : Nat := 22

/-- `STRICT_EDGE_PRIORITY`: `SVC_OVF` is disabled while an Edge is pending (R121, R184).
UNVERIFIED: decided by the spec (D8), unsafe against an equal-priority implementation; assumption log 21. -/
def strictEdgePriority : Bool := true

/-- `F`, the reference tick frequency in hertz (R5); used by the informative figures of R107 and R224 only. -/
def tickFrequencyHz : Nat := 32768

/-- `BAUD`, the reference line rate in bits per second (R5); used by the informative figures of R224 only. -/
def baud : Nat := 9600

/-- Data bits of one serial unit (R5, R76); informative. -/
def dataBits : Nat := 8

/-- Stop bits of one serial unit (R5, R76); informative. -/
def stopBits : Nat := 1

/-- Start bits of one serial unit. PRESUMED: general knowledge the spec marks as not in its source (R76, G3); safe,
since only the informative figures of R224 use it. -/
def startBits : Nat := 1

end Sys2Proof.Config
end

