-- ==== Sys2Proof/Syntax.lean ====
section
/-! DEFINITION. The six operations of the block (spec/30_encoding.md R78), one constructor per row of the opcode
table, and the lines of a stimulus script (R81, R82). -/

namespace Sys2Proof

/-- The operations of the block. None has an operand (R80). -/
inductive Instr where
  /-- `RESET`, code 0x00 (R210). -/
  | reset
  /-- `TICK`, code 0x01: one period of the counter clock (R100). -/
  | tick
  /-- `FALL`, code 0x02: a falling edge of the monitored input (R101). -/
  | fall
  /-- `SVC_EDGE`, code 0x03: delivery of a pending Edge (R123). -/
  | svcEdge
  /-- `SVC_OVF`, code 0x04: delivery of a pending Overflow (R121). -/
  | svcOvf
  /-- `TXRDY`, code 0x05: a transmit-ready event (R162). -/
  | txrdy
deriving DecidableEq, Repr

/-- Who decides that an operation happens (R7). -/
inductive Chooser where
  /-- The reset source, the counter clock, the monitored signal or the external serializer. -/
  | environment
  /-- The block's own delivery of a pending event. -/
  | block
deriving DecidableEq, Repr

/-- The agent that chooses an operation (R7). -/
def Instr.chooser : Instr → Chooser
  | .reset => .environment
  | .tick => .environment
  | .fall => .environment
  | .svcEdge => .block
  | .svcOvf => .block
  | .txrdy => .environment

/-- The source's own names of the deliveries (R11, R81, R83): what a handler-level sequence is made of. -/
inductive SourceEvent where
  /-- `Edge(tick)`. -/
  | edge (tick : U16)
  /-- `Overflow()`. -/
  | overflow
  /-- The transmit-ready event. -/
  | transmitReady
deriving DecidableEq, Repr

/-- A level of the monitored input (R102). -/
inductive Level where
  | low
  | high
deriving DecidableEq, Repr

/-- What the environment does at the block's interface (R191): each names one of its input signals. -/
inductive InputEvent where
  /-- `rst` is asserted. -/
  | rst
  /-- One period of the counter clock. -/
  | counterClock
  /-- `sig_in` goes from one level to another, or stays. -/
  | sigIn (before after : Level)
  /-- `tx_ready`: the serializer can take a byte. -/
  | txReady
deriving DecidableEq, Repr

/-- One line of a stimulus script: an operation (R81) or one of the three pseudo-operations (R82). -/
inductive ScriptLine where
  /-- An operation by its mnemonic. -/
  | op (i : Instr)
  /-- `TICKN n`: `TICK` repeated `n` times. -/
  | tickN (n : Nat)
  /-- `TXRDYN n`: `TXRDY` repeated `n` times. -/
  | txrdyN (n : Nat)
  /-- `PULSE`: `FALL` then `SVC_EDGE`. -/
  | pulse
deriving DecidableEq, Repr

end Sys2Proof
end

