-- ==== Sys2Proof/Machine/State.lean ====
section
/-! DEFINITION. The state tuple of the block (spec/10_state.md R34) as plain data, its reset values (R35), and the
reasons a step can stop. -/

namespace Sys2Proof.Machine

/-- Faults of the block: none. "The block raises no synchronous exception ... The complete list of exception causes
is therefore empty, and a model needs no fault outcome for any of the six operations" (R180). -/
inductive Fault where
deriving DecidableEq, Repr

/-- Why the model has no step for what it was asked. None is an event of the block itself. -/
inductive Refusal where
  /-- An operation the model gives no meaning yet; raised by exec's arms only (none is left). Safe. -/
  | notModelled (mnemonic : String)
  /-- A stimulus holds a reserved event code: it is refused, not a no-op (R79). Raised by step. Safe. -/
  | reservedCode (code : Byte)
  /-- `SVC_EDGE` asked for with `edgePending = 0`: it has no step there (R79, R123). Raised by execSvcEdge. Safe. -/
  | edgeNotPending
  /-- `SVC_OVF` asked for while its guard `ovfPending = 1 and edgePending = 0` is false: it has no step there
  (R79, R121). Raised by execSvcOvf. Safe. -/
  | overflowNotServiceable
  /-- `BufRead` or `BufWrite` with an index above 21: refused, not wrapped (R51). Raised by load and hTx; no state
  reachable from reset raises it (R36). Safe. -/
  | indexOutsideBuffer (index : Nat)
deriving DecidableEq, Repr

/-- The message buffer (R27, R50) as its bytes that differ from `TERM`, addresses strictly rising.
A location that is not listed holds `TERM`, its reset content (R35). -/
abbrev Memory := List Host.Cell

/-- The report triple that the IntervalTracker emits once per serviced edge (R12, R122). A temporary, not state. -/
structure Report where
  pulses : U16
  overflowCount : U16
  delta : U16
deriving DecidableEq, Repr

/-- The complete state of the block (R34), its output trace `wire` (R30) and the model's own `stimulus`. -/
structure State where
  /-- The free-running counter (R20). -/
  tickCounter : U16
  /-- The counter value latched at the last falling edge (R21). -/
  captureLatch : U16
  /-- A falling edge has been captured and not yet delivered (R22). -/
  edgePending : Bool
  /-- The counter has wrapped and the Overflow is not yet delivered (R23). -/
  ovfPending : Bool
  /-- Serviced edges since reset, modulo 0x10000 (R24). -/
  pulses : U16
  /-- Overflows delivered since the last serviced edge, modulo 0x10000 (R25). -/
  overflowCount : U16
  /-- The tick of the last serviced edge (R26). -/
  prevTick : U16
  /-- The message buffer (R27). -/
  buf : Memory
  /-- The index of the next byte to send (R28). -/
  cursor : U5
  /-- Transmit-ready notifications are delivered (R29). -/
  armed : Bool
  /-- The bytes sent so far, oldest first (R30). -/
  wire : List Byte
  /-- The model's own field: the event codes of the stimulus not yet applied, next first (R77; assumption log 1). -/
  stimulus : List Byte
deriving DecidableEq, Repr

/-- The machine right after reset (R35), with `wire` as it is at power-on (R30): every value is the spec's, but the
empty `stimulus`, which is the model's (DESIGN CHOICE, assumption log 1). -/
def State.reset : State where
  tickCounter := Config.tickReset
  captureLatch := 0x0000#16
  edgePending := false
  ovfPending := false
  pulses := 0x0000#16
  overflowCount := 0x0000#16
  prevTick := 0x0000#16
  buf := []
  cursor := 0#5
  armed := false
  wire := []
  stimulus := []

end Sys2Proof.Machine
end

