-- ==== Sys2Proof/Machine/Ops.lean ====
section
/-! DEFINITION. The named operations over the buffer and the registers: `BufRead`, `BufWrite` (R51), the pending
flags (R183), `Send` (R163), and the delivery of an event, which stands in the place of taking an exception (R187):
nothing is saved and nothing is restored, the handler runs inside the operation that clears the flag. -/

namespace Sys2Proof.Machine

/-- The byte at index `a`; an unlisted location holds `TERM` (R27, R35). -/
def Memory.read : Memory → Nat → Byte
  | [], _ => Config.term
  | (k, v) :: m, a => if k = a then v else Memory.read m a

/-- The buffer with byte `b` at index `a`, in canonical form: writing `TERM` removes the entry. -/
def Memory.write : Memory → Nat → Byte → Memory
  | [], a, b => if b = Config.term then [] else [(a, b)]
  | (k, v) :: m, a, b =>
    if k < a then (k, v) :: Memory.write m a b
    else if k = a then (if b = Config.term then m else (a, b) :: m)
    else (if b = Config.term then (k, v) :: m else (a, b) :: (k, v) :: m)

/-- The canonical form above the address bound `lo`: addresses strictly rising, below `BUF_LEN`, no entry `TERM`. -/
def Memory.wfFrom : Nat → Memory → Bool
  | _, [] => true
  | lo, (k, v) :: m =>
    decide (lo ≤ k) && decide (k < Config.bufLen) && decide (v ≠ Config.term) && Memory.wfFrom (k + 1) m

/-- The canonical form of the buffer: equal contents are equal lists. -/
def Memory.wf (m : Memory) : Bool := Memory.wfFrom 0 m

/-- `BufRead(i)`, for `0 <= i <= 21`; no answer for an index above 21 (R51). -/
def bufRead (m : Memory) (i : Nat) : Option Byte :=
  if i < Config.bufLen then some (m.read i) else none

/-- `BufWrite(i, b)`, for `0 <= i <= 21`; no answer for an index above 21 (R51). -/
def bufWrite (m : Memory) (i : Nat) (b : Byte) : Option Memory :=
  if i < Config.bufLen then some (m.write i b) else none

/-- `BufWrite` of the bytes of a list at ascending indices from `i` (the loop of `LOAD`, R160, R52). -/
def bufWriteAll : Memory → Nat → List Byte → Option Memory
  | m, _, [] => some m
  | m, i, b :: bs =>
    match bufWrite m i b with
    | some m' => bufWriteAll m' (i + 1) bs
    | none => none

/-- Every location of the buffer at its reset value `TERM`: the 22 `BufWrite`s of `RESET` (R210) leave nothing
listed. -/
def clearedBuffer : Memory := []

/-- The bytes the buffer holds at indices 0 to `n - 1`. -/
def bufBytes (m : Memory) (n : Nat) : List Byte := (List.range n).map m.read

/-- `tickCounter <- v` (R100). -/
def State.setTickCounter (s : State) (v : U16) : State := { s with tickCounter := v }

/-- The Overflow event becomes pending; the flag is one bit and cannot count (R23, R106, R183). -/
def State.raiseOverflow (s : State) : State := { s with ovfPending := true }

/-- The Edge event becomes pending with its tick latched in the same atomic step; a latch still pending is
overwritten (R22, R101, R105). -/
def State.captureEdge (s : State) : State := { s with captureLatch := s.tickCounter, edgePending := true }

/-- The delivery of an Edge clears its pending flag (R123, R183). -/
def State.acceptEdge (s : State) : State := { s with edgePending := false }

/-- The delivery of an Overflow clears its pending flag (R121, R183). -/
def State.acceptOverflow (s : State) : State := { s with ovfPending := false }

/-- `overflowCount <- v` (R120, R122 step 6). -/
def State.setOverflowCount (s : State) (v : U16) : State := { s with overflowCount := v }

/-- The tracker's registers after steps 1 to 4 of `H_EDGE(tick)` (R122): the report's first two fields and the new
`prevTick`. -/
def State.setTracker (s : State) (r : Report) (tick : U16) : State :=
  { s with pulses := r.pulses, overflowCount := r.overflowCount, prevTick := tick }

/-- The Transmitter is armed on new buffer contents, its cursor rewound (R160). -/
def State.arm (s : State) (m : Memory) : State := { s with buf := m, cursor := 0#5, armed := true }

/-- The Transmitter disarms and rewinds (R161). -/
def State.disarm (s : State) : State := { s with armed := false, cursor := 0#5 }

/-- `Send(b)`: append to `wire` (R163). It never blocks and never fails. -/
def State.send (s : State) (b : Byte) : State := { s with wire := s.wire ++ [b] }

/-- `cursor <- cursor + 1` (R161). -/
def State.advanceCursor (s : State) : State := { s with cursor := s.cursor + 1#5 }

/-- The stimulus still to be applied (the model's own field, assumption log 1). -/
def State.setStimulus (s : State) (codes : List Byte) : State := { s with stimulus := codes }

/-- Run `f` on the state an outcome gives; a stop stays a stop. -/
def andThen (o : Host.Outcome State Fault Refusal) (f : State → Host.Outcome State Fault Refusal) :
    Host.Outcome State Fault Refusal :=
  match o with
  | .next s => f s
  | .fault r => .fault r
  | .refused r => .refused r

end Sys2Proof.Machine
end

