-- ==== Sys2Proof/Machine/Operands.lean ====
section
/-! DEFINITION. The operand forms. No event code carries an operand (R80); what the operations read instead is the
latch, as the `tick` of `Edge(tick)`, and the byte of the buffer at the cursor. -/

namespace Sys2Proof.Machine

/-- The `tick` operand of `Edge(tick)`: `captureLatch`, an unsigned 16-bit value with no extension, scaling or shift
(R80, R123). -/
def edgeTick (s : State) : U16 := s.captureLatch

/-- The index `H_TX` reads: `cursor`, direct indexing with post-increment (R161). -/
def cursorIndex (s : State) : Nat := s.cursor.toNat

/-- The byte at the cursor; no answer for an index above 21 (R51, R161). -/
def byteAtCursor (s : State) : Option Byte := bufRead s.buf (cursorIndex s)

end Sys2Proof.Machine
end

