-- ==== Sys2Proof/Machine/Flags.lean ====
section
/-! DEFINITION. The conditions the operations compute: the guards (R121, R123, R184, R186), the counter's wrap
(R100), the tracker's comparison (R128) and the Transmitter's (R168). Each is used at once and stored nowhere (R33). -/

namespace Sys2Proof.Machine

/-- The counter stands at 0xFFFF, so the next tick wraps it (R100). -/
def counterAtTop (s : State) : Bool := s.tickCounter == 0xFFFF#16

/-- `tick <u prevTick`: the wrap branch of `H_EDGE` (R122 step 2, R128). -/
def wrapBranch (tick prevTick : U16) : Bool := decide (tick < prevTick)

/-- `b = TERM` (R161, R168). -/
def isTerminator (b : Byte) : Bool := b == Config.term

/-- The guard of `SVC_EDGE`: `edgePending = 1` (R123). -/
def svcEdgeEnabled (s : State) : Bool := s.edgePending

/-- The guard of `SVC_OVF` for either value of `STRICT_EDGE_PRIORITY` (R5, R121): false drops the
`edgePending = 0` conjunct. -/
def svcOvfEnabledAt (strict : Bool) (s : State) : Bool := s.ovfPending && (!strict || !s.edgePending)

/-- The guard of `SVC_OVF`: `ovfPending = 1 and edgePending = 0` (R121, R184). -/
def svcOvfEnabled (s : State) : Bool := svcOvfEnabledAt Config.strictEdgePriority s

/-- The choice among enabled operations (R186): the environment's four always, the two services by their guards. -/
def enabled : Instr → State → Bool
  | .reset, _ => true
  | .tick, _ => true
  | .fall, _ => true
  | .svcEdge, s => svcEdgeEnabled s
  | .svcOvf, s => svcOvfEnabled s
  | .txrdy, _ => true

end Sys2Proof.Machine
end

