-- ==== Sys2Proof/Machine/CaptureTimer.lean ====
section
/-! DEFINITION. The CaptureTimer (spec/40_capture_timer.md): the operations `TICK` and `FALL`. -/

namespace Sys2Proof.Machine

/-- `TICK` (R100): the counter advances; at 0xFFFF it goes to 0 and marks the Overflow pending. -/
def execTick (s : State) : Host.Outcome State Fault Refusal :=
  .next (if counterAtTop s then (s.setTickCounter 0x0000#16).raiseOverflow
    else s.setTickCounter (s.tickCounter + 1#16))

/-- `FALL` (R101): the latch takes the counter and the Edge becomes pending, atomically. -/
def execFall (s : State) : Host.Outcome State Fault Refusal := .next s.captureEdge

end Sys2Proof.Machine
end

