-- ==== Sys2Proof/Machine/MessageFormatter.lean ====
section
/-! DEFINITION. The MessageFormatter (spec/42_message_formatter.md): `DEC` and `FMT`, pure and stateless. -/

namespace Sys2Proof.Machine

/-- `'T'` (R73). -/
def charT : Byte := 0x54#8
/-- Space (R73). -/
def charSpace : Byte := 0x20#8
/-- CR (R73). -/
def charCR : Byte := 0x0D#8
/-- LF (R73). -/
def charLF : Byte := 0x0A#8

/-- The digit byte `0x30 + k` (R72). -/
def digitByte (k : Nat) : Byte := BitVec.ofNat 8 (0x30 + k)

/-- The recursion of `DEC` on natural numbers (R141), with `fuel` further divisions allowed so that it is
structural; 4 divisions bring every `u16` below 10 (assumption log 17). -/
def decNat : Nat → Nat → List Byte
  | 0, v => [digitByte (v % 10)]
  | fuel + 1, v => if v < 10 then [digitByte v] else decNat fuel (v / 10) ++ [digitByte (v % 10)]

/-- `DEC(v)`: unsigned decimal, no leading zeros, most significant digit first (R72, R141). -/
def dec (v : U16) : List Byte := decNat 4 v.toNat

/-- `FMT(p, o, d)`: the report line (R71, R140). -/
def fmt (p o d : U16) : List Byte :=
  [charT, charSpace] ++ dec p ++ [charSpace] ++ dec o ++ [charSpace] ++ dec d ++ [charCR, charLF]

/-- `FMT(report)`, the fields in the order pulses, overflowCount, delta (R140, R143). -/
def fmtReport (r : Report) : List Byte := fmt r.pulses r.overflowCount r.delta

end Sys2Proof.Machine
end

