-- ==== Sys2Proof/Machine/Transmitter.lean ====
section
/-! DEFINITION. The Transmitter (spec/43_transmitter.md): `LOAD`, `H_TX` and the operation `TXRDY`. -/

namespace Sys2Proof.Machine

/-- `LOAD(msg)`: the message and its terminator at index 0 on, the cursor rewound, the Transmitter armed, whatever
it was doing (R160). -/
def load (msg : List Byte) (s : State) : Host.Outcome State Fault Refusal :=
  match bufWriteAll s.buf 0 (msg ++ [Config.term]) with
  | some m => .next (s.arm m)
  | none => .refused (.indexOutsideBuffer Config.bufLen)

/-- `H_TX`: send the byte at the cursor and advance, or disarm and rewind at the terminator (R161). -/
def hTx (s : State) : Host.Outcome State Fault Refusal :=
  match byteAtCursor s with
  | some b => .next (if isTerminator b then s.disarm else (s.send b).advanceCursor)
  | none => .refused (.indexOutsideBuffer (cursorIndex s))

/-- `TXRDY` (R162): `H_TX` when armed; a disarmed Transmitter ignores the event and does not remember it (D17). -/
def execTxrdy (s : State) : Host.Outcome State Fault Refusal :=
  if s.armed then hTx s else .next s

end Sys2Proof.Machine
end

