-- ==== Sys2Proof/Machine/IntervalTracker.lean ====
section
/-! DEFINITION. The IntervalTracker (spec/41_interval_tracker.md): the handlers `H_OVF` and `H_EDGE` as functions on
the state, and the service operations `SVC_OVF` and `SVC_EDGE` that deliver a pending event to them. -/

namespace Sys2Proof.Machine

/-- `H_OVF`: `overflowCount +16 1` (R120). -/
def hOvf (s : State) : State := s.setOverflowCount (s.overflowCount + 1#16)

/-- The `delta` of `H_EDGE` (R122 steps 2 and 3): `0xFFFF - (prevTick - tick)` in the wrap branch, else
`tick - prevTick` (conflict C1 keeps 0xFFFF). -/
def deltaOf (tick prevTick : U16) : U16 :=
  if wrapBranch tick prevTick then Config.deltaWrapConst - (prevTick - tick) else tick - prevTick

/-- The report of `H_EDGE(tick)` (R122): `pulses` incremented, `overflowCount` after the decrement of the wrap branch
(wrapping, R127) and before its reset, and the delta. -/
def edgeReport (tick : U16) (s : State) : Report where
  pulses := s.pulses + 1#16
  overflowCount := if wrapBranch tick s.prevTick then s.overflowCount - 1#16 else s.overflowCount
  delta := deltaOf tick s.prevTick

/-- `H_EDGE(tick)` (R122): steps 1 to 4 on the tracker, step 5 loads the formatted report, step 6 clears
`overflowCount`. Every path makes a report (R129). -/
def hEdge (tick : U16) (s : State) : Host.Outcome State Fault Refusal :=
  andThen (load (fmtReport (edgeReport tick s)) (s.setTracker (edgeReport tick s) tick))
    (fun t => .next (t.setOverflowCount 0x0000#16))

/-- `SVC_EDGE` (R123): has a step only with `edgePending = 1`; clears the flag and runs `H_EDGE(captureLatch)`. -/
def execSvcEdge (s : State) : Host.Outcome State Fault Refusal :=
  if svcEdgeEnabled s then hEdge (edgeTick s) s.acceptEdge else .refused .edgeNotPending

/-- `SVC_OVF` (R121): has a step only with `ovfPending = 1 and edgePending = 0`; clears the flag and runs `H_OVF`. -/
def execSvcOvf (s : State) : Host.Outcome State Fault Refusal :=
  if svcOvfEnabled s then .next (hOvf s.acceptOverflow) else .refused .overflowNotServiceable

end Sys2Proof.Machine
end

