-- ==== Sys2Proof/Machine/Reset.lean ====
section
/-! DEFINITION. The operation `RESET` (spec/70_reset_and_hazards.md R210). -/

namespace Sys2Proof.Machine

/-- Every piece of state at its reset value (R35, R210); `wire` is unchanged, a byte already sent cannot be unsent
(R30), and the codes still to be applied stay (assumption log 1). -/
def resetBlock (s : State) : State where
  tickCounter := Config.tickReset
  captureLatch := 0x0000#16
  edgePending := false
  ovfPending := false
  pulses := 0x0000#16
  overflowCount := 0x0000#16
  prevTick := 0x0000#16
  buf := clearedBuffer
  cursor := 0#5
  armed := false
  wire := s.wire
  stimulus := s.stimulus

/-- `RESET` has a step in every state (R210). -/
def execReset (s : State) : Host.Outcome State Fault Refusal := .next (resetBlock s)

end Sys2Proof.Machine
end

