-- ==== Sys2Proof/Machine/Dispatch.lean ====
section
/-! DEFINITION. One arm per operation: the meaning each event code selects (spec/30_encoding.md R78). -/

namespace Sys2Proof.Machine

def exec (i : Instr) (s : State) : Host.Outcome State Fault Refusal :=
  match i with
  | .reset => Sys2Proof.Machine.execReset s
  | .tick => Sys2Proof.Machine.execTick s
  | .fall => Sys2Proof.Machine.execFall s
  | .svcEdge => Sys2Proof.Machine.execSvcEdge s
  | .svcOvf => Sys2Proof.Machine.execSvcOvf s
  | .txrdy => Sys2Proof.Machine.execTxrdy s

end Sys2Proof.Machine
end

