-- ==== Sys2Proof/WellFormed.lean ====
section
/-! DEFINITION. What is well formed: an operation, a stimulus of event codes (R79), a message (R160). -/

namespace Sys2Proof

/-- Every operation is well formed: none has an operand that could be out of range (R80). -/
def Instr.wellFormed : Instr → Bool
  | .reset => true
  | .tick => true
  | .fall => true
  | .svcEdge => true
  | .svcOvf => true
  | .txrdy => true

/-- An event code that names an operation: 0x00 to 0x05 (R78); 0x06 to 0xFF are reserved (R79). -/
def assignedCode (c : Byte) : Bool := decide (c.toNat ≤ 5)

/-- A stimulus holds assigned codes only: "a model's decoder must refuse a stimulus containing" a reserved one (R79). -/
def stimulusWellFormed (codes : List Byte) : Bool := codes.all assignedCode

/-- The 14 byte values that can appear in a message (R73): `T`, space, the ten digits, CR and LF. -/
def isMessageByte (b : Byte) : Bool :=
  b == 0x54#8 || b == 0x20#8 || (decide (0x30 ≤ b.toNat) && decide (b.toNat ≤ 0x39)) || b == 0x0D#8 || b == 0x0A#8

/-- The operand of `LOAD`: 9 to 21 bytes, none of them `TERM` (R160). -/
def messageWellFormed (msg : List Byte) : Bool :=
  decide (9 ≤ msg.length) && decide (msg.length ≤ 21) && msg.all (fun b => b != Config.term)

end Sys2Proof
end

