-- ==== Sys2Proof/Decode.lean ====
section
/-! DEFINITION. Format `E8` (spec/30_encoding.md R77 to R79): one event code of one byte per operation.
The decoder is total on any bytes and rejects by name; the encoder stands after it. -/

namespace Sys2Proof

/-- Why bytes do not decode. -/
inductive DecodeError where
  /-- The byte is one of the reserved codes 0x06 to 0xFF (R79). Safe: nothing runs. -/
  | reservedCode (code : Byte)
  /-- There is no byte to read. Safe: nothing runs. -/
  | noCode
deriving DecidableEq, Repr

/-- The operation an event code selects (R78); a reserved code selects none (R79). -/
def decodeCode (c : Byte) : Option Instr :=
  if c = 0x00#8 then some .reset
  else if c = 0x01#8 then some .tick
  else if c = 0x02#8 then some .fall
  else if c = 0x03#8 then some .svcEdge
  else if c = 0x04#8 then some .svcOvf
  else if c = 0x05#8 then some .txrdy
  else none

/-- The decoder reads one byte at a time; the next code starts at the next byte (R77). -/
def decode : List Byte → Except DecodeError (Instr × List Byte)
  | [] => .error .noCode
  | c :: rest =>
    match decodeCode c with
    | some i => .ok (i, rest)
    | none => .error (.reservedCode c)

/-- A whole stimulus (R77): the operations its codes name, or the first reserved code (R79). -/
def decodeStimulus : List Byte → Except DecodeError (List Instr)
  | [] => .ok []
  | c :: rest =>
    match decodeCode c with
    | none => .error (.reservedCode c)
    | some i =>
      match decodeStimulus rest with
      | .ok is => .ok (i :: is)
      | .error e => .error e

/-- The event code of an operation (R78). -/
def eventCode : Instr → Byte
  | .reset => 0x00#8
  | .tick => 0x01#8
  | .fall => 0x02#8
  | .svcEdge => 0x03#8
  | .svcOvf => 0x04#8
  | .txrdy => 0x05#8

/-- The words of an operation: one byte (R77). -/
def encode (i : Instr) : List Byte := [eventCode i]

/-- The codes of a sequence of operations, in order (R77, R81). -/
def encodeStimulus (is : List Instr) : List Byte := is.flatMap encode

/-- The bytes of an instruction whose bits are `w`: byte `k` holds bits `8k+7..8k`, the first at the lowest place. -/
def tableBytes (n w : Nat) : List Byte := (List.range n).map (fun k => BitVec.ofNat 8 (w / 2 ^ (8 * k)))

/-- What the decoder reads from an opcode-table word of `nbits` bits: format `E8` has one byte, so a word of
another size names no operation (R77). -/
def decodeTableWord (nbits w : Nat) : Option Instr :=
  if nbits = 8 then
    match decode (tableBytes 1 w) with
    | .ok (i, _) => some i
    | .error _ => none
  else none

end Sys2Proof
end

