-- ==== Sys2Proof/Machine/Fetch.lean ====
section
/-! DEFINITION. What stands in the place of fetching. The block fetches nothing (R70); the stimulus is a sequence of
event codes applied in order (R77), and the model holds the codes not yet applied in State (assumption log 1). -/

namespace Sys2Proof.Machine

/-- What comes next in the stimulus. -/
inductive Fetched where
  /-- No code is left: the block idles (R195). -/
  | idle
  /-- The next code is reserved (R79). -/
  | reserved (code : Byte)
  /-- The next operation, and the stimulus after its code. -/
  | op (i : Instr) (rest : List Byte)
deriving DecidableEq, Repr

/-- The next operation of the stimulus, read by the decoder. -/
def fetch (s : State) : Fetched :=
  match decode s.stimulus with
  | .ok (i, rest) => .op i rest
  | .error (.reservedCode c) => .reserved c
  | .error .noCode => .idle

/-- The event code of a table word, at the place of the next code of the stimulus; the codes after it stay. -/
def placeFetchWord (s : State) (nbits w : Nat) : State :=
  s.setStimulus (tableBytes 1 (w % 2 ^ nbits) ++ s.stimulus.drop 1)

end Sys2Proof.Machine
end

