-- ==== Sys2Proof/Machine/Step.lean ====
section
/-! DEFINITION. One step of the machine: the next operation of the stimulus, applied as one atomic operation (R6,
R77), or idling when the stimulus is empty (R195). -/

namespace Sys2Proof.Machine

/-- The next code leaves the stimulus and its operation runs; a reserved code is refused (R79); with no code left
the block idles, which changes nothing (R195; DESIGN CHOICE, assumption log 2). -/
def step (s : State) : Host.Outcome State Fault Refusal :=
  match fetch s with
  | .idle => .next s
  | .reserved c => .refused (.reservedCode c)
  | .op i rest => exec i (s.setStimulus rest)

/-- `s` with the table word stored where step fetches its next operation: as the next code of the stimulus. -/
def State.withFetchWord (s : State) (nbits w : Nat) : State := placeFetchWord s nbits w

end Sys2Proof.Machine
end

