-- ==== Sys2Proof/Machine/Script.lean ====
section
/-! DEFINITION. The stimulus script (spec/30_encoding.md R81, R82): text to event codes. Lexical details the spec
does not give (blanks, carriage returns, hexadecimal digits in either case) are DESIGN CHOICE, assumption log 18. -/

namespace Sys2Proof.Machine

/-- Why a script does not assemble: the number of its first line that is no operation, counted from 1. Safe. -/
inductive ScriptError where
  | badLine (number : Nat)
deriving DecidableEq, Repr

/-- The mnemonic of an operation, in upper case (R78, R81). -/
def mnemonic : Instr → List Char
  | .reset => ['R', 'E', 'S', 'E', 'T']
  | .tick => ['T', 'I', 'C', 'K']
  | .fall => ['F', 'A', 'L', 'L']
  | .svcEdge => ['S', 'V', 'C', '_', 'E', 'D', 'G', 'E']
  | .svcOvf => ['S', 'V', 'C', '_', 'O', 'V', 'F']
  | .txrdy => ['T', 'X', 'R', 'D', 'Y']

/-- The operation a word names (R81). -/
def operationNamed (w : List Char) : Option Instr :=
  if w = mnemonic .reset then some .reset
  else if w = mnemonic .tick then some .tick
  else if w = mnemonic .fall then some .fall
  else if w = mnemonic .svcEdge then some .svcEdge
  else if w = mnemonic .svcOvf then some .svcOvf
  else if w = mnemonic .txrdy then some .txrdy
  else none

/-- The pieces of a text between the characters of a kind. -/
def piecesBetween (cut : Char → Bool) : List Char → List (List Char)
  | [] => [[]]
  | c :: cs =>
    if cut c then [] :: piecesBetween cut cs
    else
      match piecesBetween cut cs with
      | [] => [[c]]
      | w :: ws => (c :: w) :: ws

/-- A line without its comment: a `;` starts one that runs to the end of the line (R81). -/
def withoutComment (line : List Char) : List Char := line.takeWhile (fun c => c != ';')

/-- Space, tab and carriage return separate words (DESIGN CHOICE, assumption log 18). -/
def isBlankChar (c : Char) : Bool := c == ' ' || c == '\t' || c == '\r'

/-- The words of a line. -/
def wordsOf (line : List Char) : List (List Char) :=
  (piecesBetween isBlankChar (withoutComment line)).filter (fun w => !w.isEmpty)

/-- The value of a digit character, hexadecimal in either case. -/
def digitValue (c : Char) : Nat :=
  if '0' ≤ c ∧ c ≤ '9' then c.toNat - '0'.toNat
  else if 'a' ≤ c ∧ c ≤ 'f' then c.toNat - 'a'.toNat + 10
  else if 'A' ≤ c ∧ c ≤ 'F' then c.toNat - 'A'.toNat + 10
  else 16

/-- A number in a base, one digit or more, most significant first. -/
def numberInBase (base : Nat) (ds : List Char) : Option Nat :=
  if ds.isEmpty || ds.any (fun c => decide (base ≤ digitValue c)) then none
  else some (ds.foldl (fun n c => n * base + digitValue c) 0)

/-- `n` of a pseudo-operation: "a decimal or `0x` hexadecimal natural number" (R82). -/
def countOf (w : List Char) : Option Nat :=
  match w with
  | '0' :: 'x' :: ds => numberInBase 16 ds
  | ds => numberInBase 10 ds

/-- What one line says: nothing for a blank line (R81), one operation or one pseudo-operation (R82); the outer `none`
where it is neither. -/
def parseLine (line : List Char) : Option (Option ScriptLine) :=
  match wordsOf line with
  | [] => some none
  | [w] =>
    if w = ['P', 'U', 'L', 'S', 'E'] then some (some .pulse)
    else (operationNamed w).map (fun i => some (.op i))
  | [w, n] =>
    if w = ['T', 'I', 'C', 'K', 'N'] then (countOf n).map (fun k => some (.tickN k))
    else if w = ['T', 'X', 'R', 'D', 'Y', 'N'] then (countOf n).map (fun k => some (.txrdyN k))
    else none
  | _ => none

/-- The operations a line stands for: each pseudo-operation is a fixed expansion (R82). -/
def expandLine : ScriptLine → List Instr
  | .op i => [i]
  | .tickN n => List.replicate n .tick
  | .txrdyN n => List.replicate n .txrdy
  | .pulse => [.fall, .svcEdge]

/-- The operations of the lines of a script, in order; `number` is that of the first of them. -/
def assembleLines : Nat → List (List Char) → Except ScriptError (List Instr)
  | _, [] => .ok []
  | number, l :: ls =>
    match parseLine l with
    | none => .error (.badLine number)
    | some line =>
      match assembleLines (number + 1) ls with
      | .error e => .error e
      | .ok is =>
        match line with
        | none => .ok is
        | some x => .ok (expandLine x ++ is)

/-- The operations of a script (R81). -/
def assembleOps (text : List Char) : Except ScriptError (List Instr) :=
  assembleLines 1 (piecesBetween (fun c => c == '\n') text)

/-- "The script is assembled to one event code per operation, in order" (R81). -/
def assemble (text : List Char) : Except ScriptError (List Byte) :=
  match assembleOps text with
  | .ok is => .ok (encodeStimulus is)
  | .error e => .error e

/-- A sequence of operations written as a script, one mnemonic a line (R81). -/
def printScript (is : List Instr) : List Char := is.flatMap (fun i => mnemonic i ++ ['\n'])

end Sys2Proof.Machine
end

