-- ==== Sys2Proof/Machine/Signals.lean ====
section
/-! DEFINITION. The block's interface (spec/60_exceptions.md R191): which operation an input signal stands for, and
the byte an operation puts on `tx_data` with `tx_strobe`. The signal names are the spec's (D2). -/

namespace Sys2Proof.Machine

/-- Only a falling transition of the monitored input is an event; a rising one, or a level that stays, causes no
operation (R102). -/
def levelOps (before after : Level) : List Instr :=
  match before, after with
  | .high, .low => [.fall]
  | .low, .high => []
  | .low, .low => []
  | .high, .high => []

/-- The operations an input event causes (R191): `rst` is `RESET`, a counter clock period a `TICK`, an accepted
falling transition a `FALL`, an indication of `tx_ready` a `TXRDY`. -/
def inputOps : InputEvent → List Instr
  | .rst => [.reset]
  | .counterClock => [.tick]
  | .sigIn before after => levelOps before after
  | .txReady => [.txrdy]

/-- The byte an operation hands to the serializer on `tx_data`, with `tx_strobe` given exactly when there is one
(R163, R191): only an armed `TXRDY` that does not meet the terminator sends. -/
def txData (i : Instr) (s : State) : Option Byte :=
  match i with
  | .reset => none
  | .tick => none
  | .fall => none
  | .svcEdge => none
  | .svcOvf => none
  | .txrdy =>
    if s.armed then
      match byteAtCursor s with
      | some b => if isTerminator b then none else some b
      | none => none
    else none

end Sys2Proof.Machine
end

