-- ==== Sys2Proof/Machine/SourceEvents.lean ====
section
/-! DEFINITION. Source-level event sequences (spec/30_encoding.md R83): the handlers applied directly, bypassing the
CaptureTimer and the pending flags. -/

namespace Sys2Proof.Machine

/-- The handler of one source event: `H_EDGE(tick)`, `H_OVF`, or `H_TX` behind the gate `armed` (R83, R162). -/
def handleEvent (e : SourceEvent) (s : State) : Host.Outcome State Fault Refusal :=
  match e with
  | .edge tick => hEdge tick s
  | .overflow => .next (hOvf s)
  | .transmitReady => if s.armed then hTx s else .next s

/-- Successive applications of the handlers (R83). -/
def handleEvents : List SourceEvent → State → Host.Outcome State Fault Refusal
  | [], s => .next s
  | e :: es, s => andThen (handleEvent e s) (handleEvents es)

end Sys2Proof.Machine
end

