-- ==== Sys2Proof/Machine/Timing.lean ====
section
/-! DEFINITION. The informative timing figures (spec/40_capture_timer.md R107, spec/70_reset_and_hazards.md R224).
No operation depends on them: the model has no time (R188). -/

namespace Sys2Proof.Machine

/-- `TICK` operations from one wrap to the next: 2^16 (R107). -/
def wrapTicks : Nat := 2 ^ 16

/-- Seconds of one counter cycle: 2^16 / F (R107). -/
def cycleSeconds : Nat := wrapTicks / Config.tickFrequencyHz

/-- Bit times of one unit with its start bit (R224). -/
def unitBits : Nat := Config.startBits + Config.dataBits + Config.stopBits

/-- Microseconds to send `n` units of `bits` bit times each, rounded down: bits-per-unit × length / line rate
(R167, R224). -/
def lineMicroseconds (bits n : Nat) : Nat := bits * n * 1000000 / Config.baud

/-- Whole lines of `n` units that fit in one second: the sustainable edge rate (R221, R224). -/
def sustainableEdgesPerSecond (n : Nat) : Nat := Config.baud / (unitBits * n)

/-- The largest interval the line can express without rollover, in ticks (R224). -/
def largestInterval : Nat := 0xFFFF * 0x10000 + 0xFFFF

end Sys2Proof.Machine
end

