-- ==== Sys2Proof/Safety.lean ====
section
/-! DEFINITION. The terms claims are stated in: runs of operations (R57), reachable states, the invariants of
spec/10_state.md R36 and R37, what a run has put on the wire (R165, R221), overrun (R217), fairness (R188). -/

namespace Sys2Proof.Safety

open Sys2Proof.Machine

/-- A sequence of operations applied in order, each one atomic step (R57); it stops where one has no step. -/
def runOps : List Instr → State → Host.Outcome State Fault Refusal
  | [], s => .next s
  | i :: is, s =>
    match exec i s with
    | .next t => runOps is t
    | .fault r => .fault r
    | .refused r => .refused r

/-- Some sequence of operations leads from the reset state to `s`. -/
def Reachable (s : State) : Prop := ∃ ops, runOps ops State.reset = .next s

/-- The operations hold no `RESET`. -/
abbrev ResetFree (ops : List Instr) : Prop := Instr.reset ∉ ops

/-- How often an operation stands in a sequence. -/
def countOp (i : Instr) (ops : List Instr) : Nat := ops.count i

/-- The byte at an index of the buffer of `s`. -/
def bufByte (s : State) (i : Nat) : Byte := s.buf.read i

/-- The buffer holds `msg` at index 0 on, then the terminator (R160). -/
abbrev HoldsMessage (s : State) (msg : List Byte) : Prop :=
  bufBytes s.buf (msg.length + 1) = msg ++ [Config.term]

/-- R36: the least index `L` that holds `TERM` exists, `L <= 21`, and the cursor is not beyond it. -/
abbrev TerminatorInv (s : State) : Prop :=
  ∃ L : Fin 22, bufByte s L = Config.term ∧ (∀ i : Fin 22, i < L → bufByte s i ≠ Config.term) ∧
    s.cursor.toNat ≤ L.val

/-- R37: disarmed means rewound. -/
abbrev RewoundInv (s : State) : Prop := s.armed = false → s.cursor = 0#5

/-- The buffer is in canonical form. -/
abbrev BufferInv (s : State) : Prop := s.buf.wf = true

/-- R73: the buffer holds message bytes and `TERM` only, the wire message bytes only. -/
abbrev BytesInv (s : State) : Prop :=
  (∀ i : Fin 22, bufByte s i = Config.term ∨ isMessageByte (bufByte s i) = true) ∧
    ∀ b ∈ s.wire, isMessageByte b = true

/-- The invariant every operation keeps. -/
abbrev Inv (s : State) : Prop := BufferInv s ∧ TerminatorInv s ∧ RewoundInv s ∧ BytesInv s

/-- The message that `SVC_EDGE` would load in `s` (R122, R123). -/
def serviceMessage (s : State) : List Byte := fmtReport (edgeReport (edgeTick s) s)

/-- One operation's entry in the record of loaded messages, newest first: each message with the number of `TXRDY`
operations since its load. -/
def logOp (i : Instr) (s : State) (log : List (List Byte × Nat)) : List (List Byte × Nat) :=
  match i with
  | .reset => log
  | .tick => log
  | .fall => log
  | .svcEdge => (serviceMessage s, 0) :: log
  | .svcOvf => log
  | .txrdy =>
    match log with
    | [] => []
    | (m, k) :: older => (m, k + 1) :: older

/-- The record of a run, newest first. -/
def lineLogFrom : List Instr → State → List (List Byte × Nat) → List (List Byte × Nat)
  | [], _, log => log
  | i :: is, s, log =>
    match exec i s with
    | .next t => lineLogFrom is t (logOp i s log)
    | .fault _ => log
    | .refused _ => log

/-- The messages of a run's serviced edges, oldest first, each with the number of `TXRDY` operations between its
`SVC_EDGE` and the next (R221). -/
def lineLog (ops : List Instr) (s : State) : List (List Byte × Nat) := (lineLogFrom ops s []).reverse

/-- The operation loses an event: a falling edge while one is pending (R105), a wrap while an Overflow is pending
(R106). -/
def overruns (i : Instr) (s : State) : Bool :=
  match i with
  | .reset => false
  | .tick => counterAtTop s && s.ovfPending
  | .fall => s.edgePending
  | .svcEdge => false
  | .svcOvf => false
  | .txrdy => false

/-- No operation of the run loses an event (R217). -/
def noOverrun : List Instr → State → Bool
  | [], _ => true
  | i :: is, s =>
    !overruns i s &&
      match exec i s with
      | .next t => noOverrun is t
      | .fault _ => true
      | .refused _ => true

/-- What an armed Transmitter still has to send: the bytes from the cursor up to the first terminator, which is not sent
(R161); a disarmed one has nothing to send (R162). -/
def unsentBytes (s : State) : List Byte :=
  if s.armed then ((bufBytes s.buf Config.bufLen).drop s.cursor.toNat).takeWhile (fun b => b != Config.term) else []

/-- The two states agree in everything but the bytes of the buffer beyond the first terminator (R38). -/
def SameUpToTerminator (s t : State) : Prop :=
  { s with buf := t.buf } = t ∧
    ∃ L : Fin 22, bufByte s L = Config.term ∧ bufByte t L = Config.term ∧
      ∀ i : Fin 22, i < L → bufByte s i = bufByte t i ∧ bufByte s i ≠ Config.term

/-- An unending execution: at each moment an operation, or none (idle, R195). -/
def IsExecution (ops : Nat → Option Instr) (st : Nat → State) : Prop :=
  ∀ n, match ops n with
    | none => st (n + 1) = st n
    | some i => exec i (st n) = .next (st (n + 1))

/-- Weak fairness (R188): an operation that stays enabled from some moment on is taken at that moment or later. -/
def WeaklyFair (i : Instr) (ops : Nat → Option Instr) (st : Nat → State) : Prop :=
  ∀ n, (∀ m, n ≤ m → enabled i (st m) = true) → ∃ m, n ≤ m ∧ ops m = some i

/-- The assumption on the serializer (R188): while the Transmitter stays armed, a `TXRDY` eventually comes. -/
def SerializerKeepsOffering (ops : Nat → Option Instr) (st : Nat → State) : Prop :=
  ∀ n, (∀ m, n ≤ m → (st m).armed = true) → ∃ m, n ≤ m ∧ ops m = some .txrdy

end Sys2Proof.Safety
end

