-- ==== Sys2Proof/Certificates/Slice0/Obligations.lean ====
section
/-! DEFINITION. The statements about the block, for the provers. Each docstring names the rule or the section of spec/
it formalises, and says so where it rests on a choice of the model. -/

open Sys2Proof Sys2Proof.Machine Sys2Proof.Safety

/-! ## Encodings -/

/-- A few event codes, written out from the table of R78, decode to the operations they stand for. -/
def Obligations.TableCodesDecodeToTheirOperations : Prop :=
  decode [0b00000000#8] = .ok (.reset, []) ∧ decode [0b00000001#8] = .ok (.tick, []) ∧
  decode [0b00000010#8] = .ok (.fall, []) ∧ decode [0b00000011#8] = .ok (.svcEdge, []) ∧
  decode [0b00000100#8] = .ok (.svcOvf, []) ∧ decode [0b00000101#8] = .ok (.txrdy, []) ∧
  decode [0x06#8] = .error (.reservedCode 0x06#8) ∧ decode [0xFF#8] = .error (.reservedCode 0xFF#8)

/-- Decode and encode agree on whole stimuli, in both directions: no code is dropped, shared or invented. -/
def Obligations.StimulusDecodesExactlyToItsOperations : Prop :=
  ∀ (codes : List Byte) (ops : List Instr),
    decodeStimulus codes = .ok ops ↔ codes = encodeStimulus ops

/-- R79: a stimulus decodes exactly when it holds no code from 0x06 to 0xFF; otherwise it is refused at its first
reserved code, whatever stands after it. -/
def Obligations.ReservedCodesAreRefused : Prop :=
  (∀ c : Byte, decodeCode c = none ↔ 0x06 ≤ c.toNat) ∧
  (∀ codes : List Byte, stimulusWellFormed codes = true ↔ ∃ ops, decodeStimulus codes = .ok ops) ∧
  (∀ (before after : List Byte) (c : Byte), stimulusWellFormed before = true → 0x06 ≤ c.toNat →
    decodeStimulus (before ++ c :: after) = .error (.reservedCode c))

/-- A sequence of operations written as a script, one mnemonic a line, assembles to its event codes (R81). -/
def Obligations.PrintedScriptsAssembleToTheirCodes : Prop :=
  ∀ ops : List Instr, assemble (printScript ops) = .ok (encodeStimulus ops)

/-! ## The step -/

/-- A step runs the operation the decoder reads next, on the state whose stimulus has moved past its code. A reserved
code is refused. THE MODEL'S CHOICE (assumption log 1 and 2): the stimulus is a field of the state, and with no code
left the block idles. -/
def Obligations.StepRunsTheDecodedOperation : Prop :=
  (∀ (s : State) (i : Instr) (rest : List Byte), decode s.stimulus = .ok (i, rest) → i.wellFormed = true →
    step s = exec i { s with stimulus := rest }) ∧
  (∀ (s : State) (c : Byte) (rest : List Byte), s.stimulus = c :: rest → 0x06 ≤ c.toNat →
    step s = .refused (.reservedCode c)) ∧
  (∀ s : State, s.stimulus = [] → step s = .next s)

/-- Stepping through a stimulus is applying its operations in order, each as one atomic operation, with the same
outcome, stops included (the stimulus as a field of the state is the model's choice, assumption log 1). -/
def Obligations.SteppingAStimulusAppliesItsOperations : Prop :=
  ∀ (codes : List Byte) (ops : List Instr) (s : State), decodeStimulus codes = .ok ops →
    Host.Core.run Sys2Proof.core codes.length { s with stimulus := codes } = runOps ops { s with stimulus := [] }

/-- A stimulus that holds a reserved code stops there and nowhere before it, when its earlier operations form a
run. THE MODEL'S CHOICE (assumption log 4, and 1 for the stimulus as a field of the state): that the operations before the
reserved code are run and the refusal comes only there; the spec says that such a stimulus is refused (30_encoding.md
section 3). -/
def Obligations.SteppingStopsAtAReservedCode : Prop :=
  ∀ (before after : List Byte) (c : Byte) (ops : List Instr) (s t : State),
    decodeStimulus before = .ok ops → 0x06 ≤ c.toNat → runOps ops { s with stimulus := [] } = .next t →
    Host.Core.run Sys2Proof.core before.length { s with stimulus := before ++ c :: after } =
        .next { t with stimulus := c :: after } ∧
      ∀ k, Host.Core.run Sys2Proof.core (before.length + 1 + k) { s with stimulus := before ++ c :: after } =
        .refused (.reservedCode c)

/-! ## Reset -/

/-- R210: `RESET` has a step in every state, puts every piece of state at its reset value and leaves the wire; a
`TXRDY` after it changes nothing. -/
def Obligations.ResetRestoresEveryPieceOfState : Prop :=
  encode .reset = [0x00#8] ∧
  ∀ s : State, ∃ t : State, exec .reset s = .next t ∧
    t.tickCounter = 0x0000#16 ∧ t.captureLatch = 0x0000#16 ∧ t.edgePending = false ∧ t.ovfPending = false ∧
    t.pulses = 0x0000#16 ∧ t.overflowCount = 0x0000#16 ∧ t.prevTick = 0x0000#16 ∧
    (∀ i, i ≤ 21 → bufByte t i = Config.term) ∧ t.cursor = 0#5 ∧ t.armed = false ∧
    t.wire = s.wire ∧
    exec .txrdy t = .next t

/-- R35: the values of the reset state, the wire empty as at power-on; `RESET` gives the same values from any state but
leaves the wire. -/
def Obligations.ResetStateHoldsTheTableOfResetValues : Prop :=
  State.reset.tickCounter = 0x0000#16 ∧ State.reset.captureLatch = 0x0000#16 ∧
  State.reset.edgePending = false ∧ State.reset.ovfPending = false ∧
  State.reset.pulses = 0x0000#16 ∧ State.reset.overflowCount = 0x0000#16 ∧ State.reset.prevTick = 0x0000#16 ∧
  (∀ i, i ≤ 21 → bufByte State.reset i = 0x00#8) ∧
  State.reset.cursor = 0#5 ∧ State.reset.armed = false ∧ State.reset.wire = [] ∧
  ∀ s : State, ∃ t : State, exec .reset s = .next t ∧
    t.tickCounter = State.reset.tickCounter ∧ t.captureLatch = State.reset.captureLatch ∧
    t.edgePending = State.reset.edgePending ∧ t.ovfPending = State.reset.ovfPending ∧
    t.pulses = State.reset.pulses ∧ t.overflowCount = State.reset.overflowCount ∧
    t.prevTick = State.reset.prevTick ∧ t.buf = State.reset.buf ∧ t.cursor = State.reset.cursor ∧
    t.armed = State.reset.armed ∧ t.wire = s.wire

/-- After `RESET` the block is idle and armed for nothing: neither service operation has a step, and of the others
`TXRDY` has no effect (70_reset_and_hazards.md section 1). That an operation without a step is answered by a refusal of
its own name is the model's choice (assumption log 3). -/
def Obligations.AfterResetNothingIsPendingOrArmed : Prop :=
  ∀ s t : State, exec .reset s = .next t →
    exec .svcEdge t = .refused .edgeNotPending ∧ exec .svcOvf t = .refused .overflowNotServiceable ∧
    exec .txrdy t = .next t ∧ HoldsMessage t []

/-! ## CaptureTimer -/

/-- R100: `TICK` advances the counter in every state; at 0xFFFF it goes to 0 and `ovfPending` is set, never cleared;
everything else is unchanged. -/
def Obligations.TickAdvancesTheCounter : Prop :=
  encode .tick = [0x01#8] ∧
  ∀ s : State, ∃ t : State, exec .tick s = .next t ∧
    t.tickCounter.toNat = (s.tickCounter.toNat + 1) % 0x10000 ∧
    (t.ovfPending = true ↔ s.ovfPending = true ∨ s.tickCounter.toNat = 0xFFFF) ∧
    t = { s with tickCounter := t.tickCounter, ovfPending := t.ovfPending } ∧
    ∀ a, bufByte t a = bufByte s a

/-- `n` ticks from any state (R82 `TICKN`, section 4 of 40_capture_timer.md): the counter moves by `n` modulo 0x10000,
the Overflow is pending if it was or if the counter wrapped on the way, and nothing else changes. With `n = 65536` the
counter is back where it was. -/
def Obligations.TicksAddUp : Prop :=
  ∀ (n : Nat) (s : State), ∃ t : State, runOps (expandLine (.tickN n)) s = .next t ∧
    t.tickCounter.toNat = (s.tickCounter.toNat + n) % 0x10000 ∧
    (t.ovfPending = true ↔ s.ovfPending = true ∨ 0x10000 ≤ s.tickCounter.toNat + n) ∧
    t = { s with tickCounter := t.tickCounter, ovfPending := t.ovfPending } ∧
    ∀ a, bufByte t a = bufByte s a

/-- R101: `FALL` latches the counter and marks the Edge pending in every state, leaves everything else, the counter
among it; any number of ticks afterwards leave the latch. -/
def Obligations.FallLatchesTheCounter : Prop :=
  encode .fall = [0x02#8] ∧
  ∀ s : State, ∃ t : State, exec .fall s = .next t ∧
    t.captureLatch = s.tickCounter ∧ t.edgePending = true ∧
    t = { s with captureLatch := t.captureLatch, edgePending := t.edgePending } ∧
    (∀ a, bufByte t a = bufByte s a) ∧
    ∀ n, ∃ u : State, runOps (List.replicate n .tick) t = .next u ∧ u.captureLatch = s.tickCounter

/-- Only a falling transition of the monitored input causes an operation, and that operation is `FALL` (R102). -/
def Obligations.OnlyFallingTransitionsAreEvents : Prop :=
  ∀ before after : Level,
    inputOps (.sigIn before after) = (if before = .high ∧ after = .low then [.fall] else [])

/-- R104: a coinciding `TICK` and `FALL` are taken in either order, and both are runs: the latch holds the value before
the increment, or the value after it, and nothing else differs; at the wrap the latched tick is 0xFFFF or 0x0000, with
`ovfPending` set by the same `TICK`. -/
def Obligations.CoincidingTickAndFallRunInEitherOrder : Prop :=
  ∀ s : State, ∃ t u : State, runOps [.fall, .tick] s = .next t ∧ runOps [.tick, .fall] s = .next u ∧
    t.captureLatch = s.tickCounter ∧ u.captureLatch.toNat = (s.tickCounter.toNat + 1) % 0x10000 ∧
    t.edgePending = true ∧ u = { t with captureLatch := u.captureLatch } ∧
    (s.tickCounter = 0xFFFF#16 →
      t.captureLatch = 0xFFFF#16 ∧ u.captureLatch = 0x0000#16 ∧ t.ovfPending = true ∧ u.ovfPending = true)

/-- R105: a second falling edge before the first is serviced overwrites the latch and changes nothing else; one
`SVC_EDGE` follows, with the newer tick, and one pulse is counted for the two edges. -/
def Obligations.CaptureOverrunLosesTheEarlierEdge : Prop :=
  (∀ s : State, s.edgePending = true → exec .fall s = .next { s with captureLatch := s.tickCounter }) ∧
  (∀ (s : State) (n : Nat),
    ∃ t : State, runOps (.fall :: List.replicate n .tick ++ [.fall, .svcEdge]) s = .next t ∧
      t.pulses = s.pulses + 1#16 ∧ t.prevTick.toNat = (s.tickCounter.toNat + n) % 0x10000 ∧
      t.edgePending = false ∧ ∀ u, exec .svcEdge t ≠ .next u)

/-- R106: a second wrap before the first Overflow is serviced leaves the flag set; one `SVC_OVF` follows, and two
wraps add one to `overflowCount`. -/
def Obligations.OverflowOverrunLosesTheEarlierWrap : Prop :=
  (∀ s : State, s.ovfPending = true → s.tickCounter = 0xFFFF#16 →
    exec .tick s = .next { s with tickCounter := 0x0000#16 }) ∧
  (∀ (s : State) (n : Nat), s.edgePending = false → 2 * 0x10000 ≤ s.tickCounter.toNat + n →
    s.tickCounter.toNat + n < 3 * 0x10000 →
    ∃ t : State, runOps (List.replicate n .tick ++ [.svcOvf]) s = .next t ∧
      t.overflowCount = s.overflowCount + 1#16 ∧ t.ovfPending = false ∧
      ∀ u, exec .svcOvf t ≠ .next u)

/-! ## IntervalTracker -/

/-- R120 and R121: `SVC_OVF` has a step exactly with an Overflow pending and no Edge pending; it clears the flag and
runs `H_OVF`, which adds 1 to `overflowCount`, wrapping; everything else is unchanged. -/
def Obligations.SvcOvfCountsTheOverflow : Prop :=
  encode .svcOvf = [0x04#8] ∧
  (∀ s : State, (hOvf s).overflowCount.toNat = (s.overflowCount.toNat + 1) % 0x10000 ∧
    hOvf s = { s with overflowCount := (hOvf s).overflowCount }) ∧
  (∀ s : State, s.ovfPending = true → s.edgePending = false →
    ∃ t : State, exec .svcOvf s = .next t ∧ t.ovfPending = false ∧
      t.overflowCount.toNat = (s.overflowCount.toNat + 1) % 0x10000 ∧
      t = { s with ovfPending := t.ovfPending, overflowCount := t.overflowCount } ∧
      ∀ a, bufByte t a = bufByte s a) ∧
  (∀ s t : State, s.ovfPending = false ∨ s.edgePending = true → exec .svcOvf s ≠ .next t)

/-- R122: `H_EDGE(tick)` completes on every canonical state. The report it loads has the incremented pulse count, the
overflow count after the wrap branch's decrement and before its reset, and the delta; the registers, the buffer and the
Transmitter are left as the six steps say; every buffer byte beyond the terminator and everything else is unchanged. -/
def Obligations.EdgeHandlerReportsTheInterval : Prop :=
  ∀ (tick : U16) (s : State), BufferInv s → ∃ (t : State) (p o d : U16), hEdge tick s = .next t ∧
    p.toNat = (s.pulses.toNat + 1) % 0x10000 ∧
    (if tick.toNat < s.prevTick.toNat then
        o.toNat = (s.overflowCount.toNat + 0xFFFF) % 0x10000 ∧
          d.toNat = 0xFFFF - (s.prevTick.toNat - tick.toNat)
      else o = s.overflowCount ∧ d.toNat = tick.toNat - s.prevTick.toNat) ∧
    t.pulses = p ∧ t.prevTick = tick ∧ t.overflowCount = 0x0000#16 ∧ t.cursor = 0#5 ∧ t.armed = true ∧
    HoldsMessage t (fmt p o d) ∧ (∀ a, (fmt p o d).length < a → bufByte t a = bufByte s a) ∧
    t = { s with pulses := t.pulses, overflowCount := t.overflowCount, prevTick := t.prevTick, buf := t.buf,
                 cursor := t.cursor, armed := t.armed }

/-- R123: `SVC_EDGE` has a step exactly with an Edge pending. It clears the flag and does what `H_EDGE(captureLatch)`
does; the new report stands in the buffer, the Transmitter is armed on it, and `ovfPending`, the counter, the latch, the
wire and the buffer beyond the terminator are unchanged. -/
def Obligations.SvcEdgeDeliversTheEdge : Prop :=
  encode .svcEdge = [0x03#8] ∧
  (∀ s : State, BufferInv s → s.edgePending = true →
    ∃ t u : State, exec .svcEdge s = .next t ∧ hEdge s.captureLatch s = .next u ∧
      t = { u with edgePending := false } ∧
      t.pulses.toNat = (s.pulses.toNat + 1) % 0x10000 ∧ t.prevTick = s.captureLatch ∧
      t.overflowCount = 0x0000#16 ∧ t.cursor = 0#5 ∧ t.armed = true ∧
      HoldsMessage t (serviceMessage s) ∧
      (∀ a, (serviceMessage s).length < a → bufByte t a = bufByte s a) ∧
      t = { s with edgePending := false, pulses := t.pulses, overflowCount := t.overflowCount,
                   prevTick := t.prevTick, buf := t.buf, cursor := t.cursor, armed := t.armed }) ∧
  (∀ s t : State, s.edgePending = false → exec .svcEdge s ≠ .next t)

/-- A service operation outside its guard is refused, each under a name of its own (that an operation without a step is
answered by a refusal is the model's choice, assumption log 3; 30_encoding.md section 3). -/
def Obligations.ServicesOutsideTheirGuardsAreRefused : Prop :=
  (∀ s : State, exec .svcEdge s = .refused .edgeNotPending ↔ s.edgePending = false) ∧
  (∀ s : State, exec .svcOvf s = .refused .overflowNotServiceable ↔ s.ovfPending = false ∨ s.edgePending = true)

/-- R124: each `H_EDGE` adds exactly 1 to `pulses` modulo 0x10000 and nothing but `RESET` changes it otherwise, so a
run without `RESET` adds the number of its serviced edges; from reset it is that number modulo 0x10000. -/
def Obligations.PulsesCountServicedEdges : Prop :=
  (∀ (tick : U16) (s t : State), hEdge tick s = .next t → t.pulses.toNat = (s.pulses.toNat + 1) % 0x10000) ∧
  (∀ (ops : List Instr) (s t : State), ResetFree ops → runOps ops s = .next t →
    t.pulses.toNat = (s.pulses.toNat + countOp .svcEdge ops) % 0x10000) ∧
  (∀ (ops : List Instr) (t : State), ResetFree ops → runOps ops State.reset = .next t →
    t.pulses.toNat = countOp .svcEdge ops % 0x10000)

/-- The reported delta is the modular distance in the else branch and one less in the wrap branch (41_interval_tracker.md
section 3, conflict C1); the two differ: Scenario A reports 65485 where the distance is 65486. -/
def Obligations.DeltaIsOneShortInTheWrapBranch : Prop :=
  (∀ tick prev : U16, prev.toNat ≤ tick.toNat → deltaOf tick prev = tick - prev) ∧
  (∀ tick prev : U16, tick.toNat < prev.toNat →
    deltaOf tick prev = tick - prev - 1#16 ∧ (deltaOf tick prev).toNat ≤ 0xFFFE) ∧
  deltaOf 50#16 100#16 = 65485#16 ∧ (50#16 - 100#16 : U16) = 65486#16

/-- R127: the decrement at 0 is defined behaviour: the report shows 65535 and step 6 then writes 0, with no fault, no
saturation and no flag. -/
def Obligations.UnderflowOfTheDecrementShows65535 : Prop :=
  ∀ (tick : U16) (s : State), BufferInv s → tick.toNat < s.prevTick.toNat → s.overflowCount = 0x0000#16 →
    ∃ (t : State) (p d : U16), hEdge tick s = .next t ∧ HoldsMessage t (fmt p 65535#16 d) ∧
      p = s.pulses + 1#16 ∧ d.toNat = 0xFFFF - (s.prevTick.toNat - tick.toNat) ∧
      t.overflowCount = 0x0000#16 ∧ t.edgePending = s.edgePending ∧ t.ovfPending = s.ovfPending

/-- The handler-level reconstruction law (41_interval_tracker.md section 3): after exactly `n` delivered Overflows the
report's `overflowCount * 0x10000 + delta` is the elapsed count `n * 0x10000 + (tick - prevTick)` in the else branch and
one less in the wrap branch. -/
def Obligations.ReportsReconstructElapsedTicks : Prop :=
  ∀ (n : Nat) (tick : U16) (s : State), s.overflowCount = 0x0000#16 → n ≤ 0xFFFF →
    ∃ t : State, handleEvents (List.replicate n .overflow) s = .next t ∧ t.prevTick = s.prevTick ∧
      (s.prevTick.toNat ≤ tick.toNat →
        (edgeReport tick t).overflowCount.toNat = n ∧
        (edgeReport tick t).overflowCount.toNat * 0x10000 + (edgeReport tick t).delta.toNat + s.prevTick.toNat =
          n * 0x10000 + tick.toNat) ∧
      (tick.toNat < s.prevTick.toNat → 1 ≤ n →
        (edgeReport tick t).overflowCount.toNat = n - 1 ∧
        (edgeReport tick t).overflowCount.toNat * 0x10000 + (edgeReport tick t).delta.toNat + s.prevTick.toNat + 1 =
          n * 0x10000 + tick.toNat)

/-- The same law for the whole machine, on the real counter. An edge has been serviced, at once or `k` ticks after its
capture at `prevTick` (a wrap among those ticks, if any, is still pending, since no Overflow is serviced before the edge).
From there, through any run of ticks, overflow services and transmit-ready events that loses no wrap, to the capture of
the next edge with none pending, and through any further such run to its service, the report gives the number of ticks
between the two captures, or one less where the later tick is the smaller (70_reset_and_hazards.md H5). -/
def Obligations.IntervalsBetweenEdgesAreReportedToOneTick : Prop :=
  ∀ (k : Nat) (s t t1 v : State) (ops late : List Instr), BufferInv s →
    s.edgePending = false → s.overflowCount = 0x0000#16 →
    s.prevTick.toNat + k = s.tickCounter.toNat + (if s.ovfPending = true then 0x10000 else 0) →
    (∀ i ∈ ops ++ late, i = .tick ∨ i = .svcOvf ∨ i = .txrdy) → noOverrun ops s = true →
    runOps ops s = .next t → t.ovfPending = false → exec .fall t = .next t1 → runOps late t1 = .next v →
    s.prevTick.toNat + (k + countOp .tick ops) < 0x100000000 →
    ∃ (u : State) (o d : U16), exec .svcEdge v = .next u ∧
      HoldsMessage u (fmt (s.pulses + 1#16) o d) ∧
      (if s.prevTick.toNat ≤ t.tickCounter.toNat then o.toNat * 0x10000 + d.toNat = k + countOp .tick ops
        else o.toNat * 0x10000 + d.toNat + 1 = k + countOp .tick ops)

/-- The first report after reset is the number of ticks from reset to the first capture, exactly, serviced at once or late
(70_reset_and_hazards.md section 2); it rests on the reset value 0 of the counter, which the spec decided (D3, assumption
log 5). -/
def Obligations.FirstReportCountsTicksSinceReset : Prop :=
  ∀ (ops late : List Instr) (t t1 v : State), (∀ i ∈ ops ++ late, i = .tick ∨ i = .svcOvf ∨ i = .txrdy) →
    noOverrun ops State.reset = true → runOps ops State.reset = .next t → t.ovfPending = false →
    exec .fall t = .next t1 → runOps late t1 = .next v → countOp .tick ops < 0x100000000 →
    ∃ (u : State) (o d : U16), exec .svcEdge v = .next u ∧ HoldsMessage u (fmt 1#16 o d) ∧
      o.toNat * 0x10000 + d.toNat = countOp .tick ops ∧ d = t.tickCounter

/-- R184: with both events pending `SVC_EDGE` is the only service operation enabled, and it enables `SVC_OVF`. -/
def Obligations.EdgeIsServicedBeforeOverflow : Prop :=
  ∀ s : State, s.edgePending = true → s.ovfPending = true →
    (∀ t, exec .svcOvf s ≠ .next t) ∧
    ∃ t u : State, exec .svcEdge s = .next t ∧ t.ovfPending = true ∧ t.edgePending = false ∧
      exec .svcOvf t = .next u

/-- Hazard H2 (70_reset_and_hazards.md section 3): an edge serviced with an Overflow pending misses that wrap, and the
late `SVC_OVF` puts it into the next interval: the count starts there at 1. -/
def Obligations.PendingOverflowIsCountedOneIntervalLate : Prop :=
  ∀ s : State, BufferInv s → s.edgePending = true → s.ovfPending = true →
    ∃ (t : State) (p o d : U16), runOps [.svcEdge, .svcOvf] s = .next t ∧
      p = s.pulses + 1#16 ∧
      (if s.captureLatch.toNat < s.prevTick.toNat then o = s.overflowCount - 1#16 else o = s.overflowCount) ∧
      d = deltaOf s.captureLatch s.prevTick ∧
      HoldsMessage t (fmt p o d) ∧ t.overflowCount = 1#16 ∧ t.edgePending = false ∧ t.ovfPending = false

/-- Hazard H3 (70_reset_and_hazards.md section 3): an edge captured on the last tick of a cycle and serviced after the
wrap reports that cycle, and the wrap is counted into the next interval. -/
def Obligations.EdgeJustBeforeAWrapBelongsToTheOldCycle : Prop :=
  ∀ s : State, BufferInv s → s.tickCounter = 0xFFFF#16 →
    ∃ t : State, runOps [.fall, .tick, .svcEdge, .svcOvf] s = .next t ∧
      HoldsMessage t (fmt (s.pulses + 1#16) s.overflowCount (0xFFFF#16 - s.prevTick)) ∧
      t.prevTick = 0xFFFF#16 ∧ t.tickCounter = 0x0000#16 ∧ t.overflowCount = 1#16

/-- Scenario A of the source, handler by handler (95_test_vectors.md S-A): two Overflows, then `Edge(50)` with
`prevTick = 100`, load the line `T 1 1 65485`. -/
def Obligations.ScenarioALoadsItsLine : Prop :=
  ∀ s : State, BufferInv s → s.pulses = 0#16 → s.overflowCount = 0#16 → s.prevTick = 100#16 →
    ∃ t : State, handleEvents [.overflow, .overflow, .edge 50#16] s = .next t ∧
      HoldsMessage t [0x54#8, 0x20#8, 0x31#8, 0x20#8, 0x31#8, 0x20#8, 0x36#8, 0x35#8, 0x34#8, 0x38#8, 0x35#8,
        0x0D#8, 0x0A#8] ∧
      t.pulses = 1#16 ∧ t.overflowCount = 0#16 ∧ t.prevTick = 50#16

/-! ## MessageFormatter -/

/-- R141: the recursion of `DEC`, with its values at the ends of every digit count. -/
def Obligations.DecFollowsItsRecursion : Prop :=
  (∀ v : U16, dec v =
    if v < 10#16 then [BitVec.ofNat 8 (0x30 + v.toNat)]
    else dec (v / 10#16) ++ [BitVec.ofNat 8 (0x30 + (v % 10#16).toNat)]) ∧
  (∀ v : U16, 1 ≤ (dec v).length ∧ (dec v).length ≤ 5) ∧
  dec 0#16 = [0x30#8] ∧ dec 9#16 = [0x39#8] ∧ dec 10#16 = [0x31#8, 0x30#8] ∧ dec 99#16 = [0x39#8, 0x39#8] ∧
  dec 100#16 = [0x31#8, 0x30#8, 0x30#8] ∧ dec 999#16 = [0x39#8, 0x39#8, 0x39#8] ∧
  dec 1000#16 = [0x31#8, 0x30#8, 0x30#8, 0x30#8] ∧ dec 9999#16 = [0x39#8, 0x39#8, 0x39#8, 0x39#8] ∧
  dec 10000#16 = [0x31#8, 0x30#8, 0x30#8, 0x30#8, 0x30#8] ∧
  dec 65535#16 = [0x36#8, 0x35#8, 0x35#8, 0x33#8, 0x35#8] ∧
  dec 65485#16 = [0x36#8, 0x35#8, 0x34#8, 0x38#8, 0x35#8]

/-- R72: `DEC(v)` is the shortest sequence of decimal digits whose value is `v`, most significant first: it is made of
the ten digit bytes, has the value `v`, does not start with `0` unless `v = 0`, has as many digits as its value needs, and
no shorter sequence of digit bytes has that value. -/
def Obligations.DecIsTheShortestNumeral : Prop :=
  ∀ v : U16,
    (∀ b ∈ dec v, 0x30 ≤ b.toNat ∧ b.toNat ≤ 0x39) ∧
    (dec v).foldl (fun n b => n * 10 + (b.toNat - 0x30)) 0 = v.toNat ∧
    (v ≠ 0#16 → (dec v).head? ≠ some 0x30#8) ∧ dec 0#16 = [0x30#8] ∧
    (dec v).length = Nat.log 10 v.toNat + 1 ∧
    ∀ l : List Byte, l ≠ [] → (∀ b ∈ l, 0x30 ≤ b.toNat ∧ b.toNat ≤ 0x39) →
      l.foldl (fun n b => n * 10 + (b.toNat - 0x30)) 0 = v.toNat → (dec v).length ≤ l.length

/-- The length of a message (42_message_formatter.md, Length): 6 and its three fields, 9 to 21 bytes, so that with its
terminator it fits the buffer; every byte is one of the 14 message bytes, so none is the terminator. -/
def Obligations.MessagesFitTheBuffer : Prop :=
  ∀ p o d : U16,
    (fmt p o d).length = 6 + (dec p).length + (dec o).length + (dec d).length ∧
    9 ≤ (fmt p o d).length ∧ (fmt p o d ++ [Config.term]).length ≤ Config.bufLen ∧
    (∀ b ∈ fmt p o d, isMessageByte b = true ∧ b ≠ Config.term) ∧
    messageWellFormed (fmt p o d) = true

/-- R140: the report line, its worked example and its shortest and longest instances. -/
def Obligations.FmtIsTheReportLine : Prop :=
  (∀ p o d : U16, fmt p o d =
    [0x54#8, 0x20#8] ++ dec p ++ [0x20#8] ++ dec o ++ [0x20#8] ++ dec d ++ [0x0D#8, 0x0A#8]) ∧
  (∀ p o d : U16, 9 ≤ (fmt p o d).length ∧ (fmt p o d).length ≤ 21 ∧ Config.term ∉ fmt p o d) ∧
  fmt 2#16 0#16 200#16 =
    [0x54#8, 0x20#8, 0x32#8, 0x20#8, 0x30#8, 0x20#8, 0x32#8, 0x30#8, 0x30#8, 0x0D#8, 0x0A#8] ∧
  (fmt 0#16 0#16 0#16).length = 9 ∧ (fmt 0xFFFF#16 0xFFFF#16 0xFFFF#16).length = 21

/-- The three values can be read back from the line: `FMT` is injective (42_message_formatter.md; the spec marks this
clause as derived). -/
def Obligations.ReportLinesAreUnambiguous : Prop :=
  ∀ p o d p' o' d' : U16, fmt p o d = fmt p' o' d' → p = p' ∧ o = o' ∧ d = d'

/-! ## The buffer -/

/-- The access primitives (20_memory.md section 1): below 22 a read gives the byte and a write changes that byte only and
keeps the canonical form; above 21 both are refused, and so is a `TXRDY` whose cursor is there (how a refusal is
reported is the model's choice, assumption log 6). -/
def Obligations.BufferAccessIsBoundedAndExact : Prop :=
  (∀ (m : Memory) (i : Nat), i ≤ 21 → bufRead m i = some (m.read i)) ∧
  (∀ (m : Memory) (i : Nat) (b : Byte), m.wf = true → i ≤ 21 →
    ∃ m' : Memory, bufWrite m i b = some m' ∧ m'.wf = true ∧ ∀ x, m'.read x = if x = i then b else m.read x) ∧
  (∀ (m : Memory) (i : Nat) (b : Byte), 21 < i → bufRead m i = none ∧ bufWrite m i b = none) ∧
  (∀ s : State, s.armed = true → 21 < s.cursor.toNat →
    exec .txrdy s = .refused (.indexOutsideBuffer s.cursor.toNat))

/-- The canonical form is canonical: two buffers in it that read the same at every index are the same data. -/
def Obligations.BufferContentsDetermineTheData : Prop :=
  ∀ m m' : Memory, m.wf = true → m'.wf = true → (∀ i, i ≤ 21 → m.read i = m'.read i) → m = m'

/-! ## Transmitter -/

/-- R160: `LOAD(msg)` stores the message and its terminator at index 0 on, keeps the bytes beyond, rewinds the cursor and
arms, whatever the Transmitter was doing; nothing else changes. -/
def Obligations.LoadStoresTheMessageAndArms : Prop :=
  ∀ (msg : List Byte) (s : State), messageWellFormed msg = true → BufferInv s →
    ∃ t : State, load msg s = .next t ∧ HoldsMessage t msg ∧
      (∀ a, msg.length < a → bufByte t a = bufByte s a) ∧
      t.cursor = 0#5 ∧ t.armed = true ∧ t = { s with buf := t.buf, cursor := t.cursor, armed := t.armed }

/-- R161 and R162: a disarmed Transmitter ignores `TXRDY`; an armed one sends the byte at the cursor and advances, or at
the terminator sends nothing, disarms and rewinds; nothing else changes. The advanced cursor never exceeds 21 where the
terminator invariant holds, and after a `LOAD(msg)` the `len(msg) + 1`-th event is the one that sends nothing and
disarms. -/
def Obligations.TxrdySendsOneByteOrDisarms : Prop :=
  encode .txrdy = [0x05#8] ∧
  (∀ s : State, s.armed = false → exec .txrdy s = .next s) ∧
  (∀ s : State, s.armed = true → s.cursor.toNat ≤ 21 → bufByte s s.cursor.toNat ≠ Config.term →
    ∃ t : State, exec .txrdy s = .next t ∧ t.wire = s.wire ++ [bufByte s s.cursor.toNat] ∧
      t.cursor.toNat = s.cursor.toNat + 1 ∧ t = { s with wire := t.wire, cursor := t.cursor } ∧
      ∀ a, bufByte t a = bufByte s a) ∧
  (∀ s : State, s.armed = true → s.cursor.toNat ≤ 21 → bufByte s s.cursor.toNat = Config.term →
    ∃ t : State, exec .txrdy s = .next t ∧ t.armed = false ∧ t.cursor = 0#5 ∧
      t = { s with armed := t.armed, cursor := t.cursor } ∧ ∀ a, bufByte t a = bufByte s a) ∧
  (∀ s : State, TerminatorInv s → bufByte s s.cursor.toNat ≠ Config.term → s.cursor.toNat + 1 ≤ 21) ∧
  (∀ (msg : List Byte) (s s0 : State), messageWellFormed msg = true → BufferInv s → load msg s = .next s0 →
    ∃ t u : State, runOps (List.replicate msg.length .txrdy) s0 = .next t ∧ t.armed = true ∧
      exec .txrdy t = .next u ∧ u.wire = t.wire ∧ u.armed = false ∧ u.cursor = 0#5)

/-- The complete drain (43_transmitter.md section 3): after `LOAD(msg)`, whatever ticks, edges and overflow services lie
among them, the first `len(msg)` transmit-ready events send the message in order, the next one disarms, and every
further one changes nothing. -/
def Obligations.CompleteDrainSendsTheWholeMessage : Prop :=
  ∀ (msg : List Byte) (s s0 t : State) (ops : List Instr), messageWellFormed msg = true → BufferInv s →
    load msg s = .next s0 → (∀ i ∈ ops, i = .tick ∨ i = .fall ∨ i = .svcOvf ∨ i = .txrdy) →
    runOps ops s0 = .next t →
    t.wire = s.wire ++ msg.take (countOp .txrdy ops) ∧
    (countOp .txrdy ops ≤ msg.length → t.armed = true ∧ t.cursor.toNat = countOp .txrdy ops) ∧
    (msg.length < countOp .txrdy ops → t.armed = false ∧ t.cursor = 0#5)

/-- Overwrite during the drain (43_transmitter.md section 3, hazard H1): a load over a message of which `k` bytes are
sent leaves the wire with those `k` bytes and then the new message, with nothing in between. -/
def Obligations.OverwriteCutsTheOldLine : Prop :=
  ∀ (old new : List Byte) (s s0 s1 s2 s3 : State) (ops ops' : List Instr),
    messageWellFormed old = true → messageWellFormed new = true → BufferInv s → load old s = .next s0 →
    (∀ i ∈ ops, i = .tick ∨ i = .fall ∨ i = .svcOvf ∨ i = .txrdy) → countOp .txrdy ops ≤ old.length →
    runOps ops s0 = .next s1 → load new s1 = .next s2 →
    (∀ i ∈ ops', i = .tick ∨ i = .fall ∨ i = .svcOvf ∨ i = .txrdy) → runOps ops' s2 = .next s3 →
    s1.armed = true ∧ s2.armed = true ∧ s2.cursor = 0#5 ∧ HoldsMessage s2 new ∧
    s3.wire = s.wire ++ old.take (countOp .txrdy ops) ++ new.take (countOp .txrdy ops')

/-- R166: only `RESET` and a `TXRDY` that meets the terminator disarm an armed Transmitter; a new `LOAD` leaves it
armed. -/
def Obligations.OnlyTheTerminatorOrResetDisarms : Prop :=
  (∀ (i : Instr) (s t : State), exec i s = .next t → s.armed = true → t.armed = false →
    i = .reset ∨ (i = .txrdy ∧ bufByte s s.cursor.toNat = Config.term)) ∧
  (∀ (msg : List Byte) (s t : State), load msg s = .next t → t.armed = true)

/-- Every armed state that meets the invariant is disarmed by at most 22 transmit-ready events (R36, R161). -/
def Obligations.DrainEndsWithinTwentyTwoEvents : Prop :=
  ∀ s : State, Inv s → ∃ (k : Nat) (t : State), k ≤ 22 ∧ runOps (expandLine (.txrdyN k)) s = .next t ∧
    t.armed = false ∧ t.cursor = 0#5 ∧ t.buf = s.buf

/-- `TXRDY` is unranked (R185): just before or just after a service of the edge it is a step, and the two orders differ
on the wire and in the cursor only: the old message's next byte, or the new message's first. -/
def Obligations.TransmitReadyMayFallBeforeOrAfterAService : Prop :=
  ∀ s : State, Inv s → s.edgePending = true →
    ∃ t u : State, runOps [.txrdy, .svcEdge] s = .next t ∧ runOps [.svcEdge, .txrdy] s = .next u ∧
      t.wire = s.wire ++ (txData .txrdy s).toList ∧ u.wire = s.wire ++ [0x54#8] ∧
      t.cursor = 0#5 ∧ u.cursor = 1#5 ∧ u = { t with wire := u.wire, cursor := u.cursor }

/-! ## The wire -/

/-- R30: the wire is only appended to, by the byte an operation hands to the serializer, which only `TXRDY` does; no
operation reads it: from a state with another wire each operation does the same; at power-on it is empty. -/
def Obligations.WireIsOnlyAppendedToAndNeverRead : Prop :=
  State.reset.wire = [] ∧
  ∀ (i : Instr) (s t : State) (w : List Byte), exec i s = .next t →
    t.wire = s.wire ++ (txData i s).toList ∧ (i ≠ .txrdy → txData i s = none) ∧
    exec i { s with wire := w } = .next { t with wire := w ++ (txData i s).toList }

/-- Every byte that any run from reset puts on the wire is one of the 14 message bytes (30_encoding.md section 2). -/
def Obligations.WireCarriesMessageBytesOnly : Prop :=
  ∀ s : State, Reachable s → ∀ b ∈ s.wire, isMessageByte b = true

/-- What any run without `RESET` leaves on the wire: of each serviced edge's message, oldest first, the prefix as long as
the number of transmit-ready events between its service and the next (43_transmitter.md section 3). -/
def Obligations.WireIsTheSentPartsOfTheMessages : Prop :=
  ∀ (ops : List Instr) (t : State), ResetFree ops → runOps ops State.reset = .next t →
    t.wire = (lineLog ops State.reset).flatMap (fun e => e.1.take e.2)

/-- The maximum edge rate (70_reset_and_hazards.md section 3, conflict C7): in a run from reset without a later `RESET`,
the wire is the complete messages of all serviced edges but the last and then a prefix of the last, exactly when every
`SVC_EDGE` but the last is followed by at least as many `TXRDY` as its message has bytes before the next `SVC_EDGE`. -/
def Obligations.WholeLinesExactlyWhenEveryMessageDrains : Prop :=
  ∀ (ops : List Instr) (t : State) (earlier : List (List Byte × Nat)) (last : List Byte × Nat),
    ResetFree ops → runOps ops State.reset = .next t → lineLog ops State.reset = earlier ++ [last] →
    ((∃ sent, sent <+: last.1 ∧ t.wire = earlier.flatMap (fun e => e.1) ++ sent) ↔
      ∀ e ∈ earlier, e.1.length ≤ e.2)

/-- Lines can be cut: the run PC of 95_test_vectors.md leaves `T T 2 0 2` on the wire, so "the wire is always a
concatenation of whole lines" is false of this block. -/
def Obligations.AFastSecondEdgeCutsALineOnTheWire : Prop :=
  ∃ t : State, runOps ([.reset, .tick] ++ expandLine .pulse ++ expandLine (.txrdyN 2) ++ expandLine (.tickN 2) ++
      expandLine .pulse ++ expandLine (.txrdyN 10)) State.reset = .next t ∧
    t.wire = [0x54#8, 0x20#8, 0x54#8, 0x20#8, 0x32#8, 0x20#8, 0x30#8, 0x20#8, 0x32#8, 0x0D#8, 0x0A#8] ∧
    t.tickCounter = 3#16 ∧ t.captureLatch = 3#16 ∧ t.pulses = 2#16 ∧ t.overflowCount = 0#16 ∧ t.prevTick = 3#16 ∧
    t.cursor = 0#5 ∧ t.armed = false

/-- Bytes beyond the first terminator are never observable on the wire (10_state.md section 9): two states that differ
in nothing else run the same operations with the same outcome, and stay so. -/
def Obligations.StaleBytesNeverReachTheWire : Prop :=
  ∀ (ops : List Instr) (s t s' : State), Inv s → Inv t → SameUpToTerminator s t → runOps ops s = .next s' →
    ∃ t' : State, runOps ops t = .next t' ∧ t'.wire = s'.wire ∧ SameUpToTerminator s' t'

/-! ## The whole machine -/

/-- Which operation writes what (10_state.md section 7): each piece of state changes only under the operations its row
names. The last clause has no row there: that no operation, `RESET` included, touches the field `stimulus` is the model's
choice (assumption log 1). -/
def Obligations.EachPieceOfStateHasItsWriters : Prop :=
  ∀ (i : Instr) (s t : State), exec i s = .next t →
    (t.tickCounter ≠ s.tickCounter → i = .reset ∨ i = .tick) ∧
    (t.captureLatch ≠ s.captureLatch → i = .reset ∨ i = .fall) ∧
    (t.edgePending ≠ s.edgePending → i = .reset ∨ i = .fall ∨ i = .svcEdge) ∧
    (t.ovfPending ≠ s.ovfPending → i = .reset ∨ i = .tick ∨ i = .svcOvf) ∧
    (t.pulses ≠ s.pulses → i = .reset ∨ i = .svcEdge) ∧
    (t.overflowCount ≠ s.overflowCount → i = .reset ∨ i = .svcEdge ∨ i = .svcOvf) ∧
    (t.prevTick ≠ s.prevTick → i = .reset ∨ i = .svcEdge) ∧
    (∀ a, bufByte t a ≠ bufByte s a → i = .reset ∨ i = .svcEdge) ∧
    (t.cursor ≠ s.cursor → i = .reset ∨ i = .svcEdge ∨ i = .txrdy) ∧
    (t.armed ≠ s.armed → i = .reset ∨ i = .svcEdge ∨ i = .txrdy) ∧
    (t.wire ≠ s.wire → i = .txrdy) ∧ t.stimulus = s.stimulus

/-- The choice among enabled operations (R186): in a state that meets the invariant an operation has a step exactly when
its guard holds. -/
def Obligations.OperationsHaveAStepExactlyWhenEnabled : Prop :=
  ∀ (i : Instr) (s : State), Inv s → (enabled i s = true ↔ ∃ t, exec i s = .next t)

/-- R196: no stuck state and no fault state is reachable; every reachable state has the steps `TICK`, `FALL`, `TXRDY` and
`RESET`. -/
def Obligations.EveryReachableStateHasAStep : Prop :=
  ∀ s : State, Reachable s →
    (∃ t, exec .tick s = .next t) ∧ (∃ t, exec .fall s = .next t) ∧ (∃ t, exec .txrdy s = .next t) ∧
    (∃ t, exec .reset s = .next t) ∧ ∀ (i : Instr) (r : Fault), exec i s ≠ .fault r

/-- The invariant holds at reset. -/
def Obligations.ResetStateMeetsInv : Prop := Inv State.reset

/-- Every step of the machine keeps the invariant: the buffer canonical, the terminator present with the cursor not
beyond it, disarmed means rewound, message bytes only (10_state.md section 9, 30_encoding.md section 2). -/
def Obligations.EveryStepKeepsInv : Prop :=
  ∀ s t : State, Inv s → step s = .next t → Inv t

/-- The terminator and cursor invariant and "disarmed means rewound" (10_state.md section 9): in every reachable state the
cursor is at most 21 and not beyond the first terminator, the read at the cursor is inside the buffer, an increment does
not wrap, and a disarmed Transmitter has its cursor at 0. -/
def Obligations.CursorNeverPassesTheTerminator : Prop :=
  ∀ s : State, Reachable s →
    TerminatorInv s ∧ s.cursor.toNat ≤ 21 ∧ byteAtCursor s = some (bufByte s s.cursor.toNat) ∧
    (s.cursor + 1#5).toNat = s.cursor.toNat + 1 ∧ (s.armed = false → s.cursor = 0#5)

/-- The promise of weak fairness (R188), of a pending Edge: in an unending execution that is weakly fair to `SVC_EDGE`,
an Edge that is pending is delivered, unless a `RESET` discards it. Fairness is an assumption on executions, not a
property of step (assumption log 14). -/
def Obligations.FairExecutionsDeliverEveryPendingEdge : Prop :=
  ∀ (ops : Nat → Option Instr) (st : Nat → State) (n : Nat),
    IsExecution ops st → WeaklyFair .svcEdge ops st → (st n).edgePending = true →
    ∃ m, n ≤ m ∧ (ops m = some .svcEdge ∨ ops m = some .reset)

/-- Under the assumption that a `TXRDY` eventually comes while the Transmitter is armed (R188, assumption log 14), a
message that no later edge overwrites is drained to its end: unless a `RESET` abandons it, there comes a moment at which
the Transmitter is disarmed and rewound and the wire is the wire it had, followed by the bytes of the buffer from the
cursor up to the first terminator (nothing, if it was disarmed already). -/
def Obligations.OfferedExecutionsDrainTheLastMessage : Prop :=
  ∀ (ops : Nat → Option Instr) (st : Nat → State) (n : Nat),
    IsExecution ops st → SerializerKeepsOffering ops st → Inv (st n) → (∀ m, n ≤ m → ops m ≠ some .svcEdge) →
    (∃ m, n ≤ m ∧ ops m = some .reset) ∨
    ∃ m, n ≤ m ∧ (st m).armed = false ∧ (st m).cursor = 0#5 ∧ (st m).wire = (st n).wire ++ unsentBytes (st n)

/-- The reconstruction law from capture to capture, service late or at once (41_interval_tracker.md section 3): one falling
edge is captured and serviced after any run `a`, the next is captured after any further run `b` and serviced after any run
`c`. If no wrap between the two captures is lost, and none is pending at either capture, the second report gives the ticks
between the captures, or one less where the later tick is the smaller, wherever the ticks fall among `a` and `b`; the
ticks in `c` do not enter it. -/
def Obligations.ReportsMeasureFromCaptureToCapture : Prop :=
  ∀ (s s1 t t1 v : State) (a b c : List Instr), BufferInv s →
    (∀ i ∈ a ++ b ++ c, i = .tick ∨ i = .svcOvf ∨ i = .txrdy) →
    exec .fall s = .next s1 → runOps (a ++ .svcEdge :: b) s1 = .next t →
    exec .fall t = .next t1 → runOps c t1 = .next v →
    noOverrun (a ++ .svcEdge :: b) s1 = true → s.ovfPending = false → t.ovfPending = false →
    s.tickCounter.toNat + countOp .tick (a ++ b) < 0x100000000 →
    ∃ (u : State) (o d : U16), exec .svcEdge v = .next u ∧ HoldsMessage u (fmt (s.pulses + 2#16) o d) ∧
      (if s.tickCounter.toNat ≤ t.tickCounter.toNat then o.toNat * 0x10000 + d.toNat = countOp .tick (a ++ b)
        else o.toNat * 0x10000 + d.toNat + 1 = countOp .tick (a ++ b))
end

