-- ==== Sys2Proof/Laws/Encoding.lean ====
section
/-! SUPPORT. The small laws of the decoder and the encoder. -/

namespace Sys2Proof

@[simp] theorem decodeCode_eventCode (i : Instr) : decodeCode (eventCode i) = some i := by cases i <;> rfl

/-- A code that selects an operation is that operation's code: no two codes select the same one. -/
theorem eventCode_of_decodeCode {c : Byte} {i : Instr} (h : decodeCode c = some i) : eventCode i = c := by
  unfold decodeCode at h
  split at h
  · cases h; simp_all [eventCode]
  split at h
  · cases h; simp_all [eventCode]
  split at h
  · cases h; simp_all [eventCode]
  split at h
  · cases h; simp_all [eventCode]
  split at h
  · cases h; simp_all [eventCode]
  split at h
  · cases h; simp_all [eventCode]
  · cases h

@[simp] theorem encodeStimulus_nil : encodeStimulus [] = [] := rfl

@[simp] theorem encodeStimulus_cons (i : Instr) (is : List Instr) :
    encodeStimulus (i :: is) = eventCode i :: encodeStimulus is := rfl

end Sys2Proof
end

