-- ==== Sys2Proof/Laws/Formatter.lean ====
section
/-! SUPPORT. The small laws of `DEC` and `FMT`. -/

namespace Sys2Proof.Machine

theorem decNat_length_pos (f v : Nat) : 1 ≤ (decNat f v).length := by
  cases f with
  | zero => simp [decNat]
  | succ f => by_cases h : v < 10 <;> simp [decNat, h]

theorem decNat_length_le (f v : Nat) : (decNat f v).length ≤ f + 1 := by
  induction f generalizing v with
  | zero => simp [decNat]
  | succ f ih =>
    by_cases h : v < 10
    · simp [decNat, h]
    · simpa [decNat, h] using ih (v / 10)

theorem digitByte_toNat {k : Nat} (h : k < 10) : (digitByte k).toNat = 0x30 + k := by
  simp only [digitByte, BitVec.toNat_ofNat]
  omega

/-- Every byte of a numeral is a digit byte. -/
theorem decNat_digit {f v : Nat} {b : Byte} (hb : b ∈ decNat f v) : ∃ k, k < 10 ∧ b = digitByte k := by
  induction f generalizing v with
  | zero =>
    simp only [decNat, List.mem_singleton] at hb
    exact ⟨v % 10, by omega, hb⟩
  | succ f ih =>
    by_cases h : v < 10
    · simp only [decNat, h, if_true, List.mem_singleton] at hb
      exact ⟨v, h, hb⟩
    · simp only [decNat, h, if_false, List.mem_append, List.mem_singleton] at hb
      rcases hb with hb | hb
      · exact ih hb
      · exact ⟨v % 10, by omega, hb⟩

theorem digitByte_ne_term {k : Nat} (h : k < 10) : digitByte k ≠ Config.term := by
  intro he
  have h1 := digitByte_toNat h
  rw [he] at h1
  simp only [Config.term, BitVec.toNat_ofNat] at h1
  omega

theorem dec_length_pos (v : U16) : 1 ≤ (dec v).length := decNat_length_pos 4 v.toNat

theorem dec_length_le (v : U16) : (dec v).length ≤ 5 := decNat_length_le 4 v.toNat

theorem dec_digit {v : U16} {b : Byte} (hb : b ∈ dec v) : ∃ k, k < 10 ∧ b = digitByte k := decNat_digit hb

/-- The fuel of `decNat` does not matter where it suffices. -/
theorem decNat_fuel {f g v : Nat} (hf : v < 10 ^ (f + 1)) (hg : v < 10 ^ (g + 1)) : decNat f v = decNat g v := by
  induction f generalizing g v with
  | zero =>
    have hv : v < 10 := by simpa using hf
    cases g with
    | zero => rfl
    | succ g => simp [decNat, hv, Nat.mod_eq_of_lt hv]
  | succ f ih =>
    by_cases hv : v < 10
    · cases g with
      | zero => simp [decNat, hv, Nat.mod_eq_of_lt hv]
      | succ g => simp [decNat, hv]
    · cases g with
      | zero =>
        have : v < 10 := by simpa using hg
        exact absurd this hv
      | succ g =>
        have h1 : v / 10 < 10 ^ (f + 1) := by
          apply Nat.div_lt_of_lt_mul
          rw [← Nat.pow_succ']
          exact hf
        have h2 : v / 10 < 10 ^ (g + 1) := by
          apply Nat.div_lt_of_lt_mul
          rw [← Nat.pow_succ']
          exact hg
        simp [decNat, hv, ih h1 h2]

/-- A message with its terminator fits the buffer. -/
theorem fmt_length_le (p o d : U16) : (fmt p o d).length ≤ 21 := by
  have h1 := dec_length_le p
  have h2 := dec_length_le o
  have h3 := dec_length_le d
  simp only [fmt, List.length_append, List.length_cons, List.length_nil]
  omega

theorem fmtReport_length_le (r : Report) : (fmtReport r).length ≤ 21 := fmt_length_le _ _ _

end Sys2Proof.Machine
end

