-- ==== Sys2Proof/Laws/State.lean ====
section
/-! SUPPORT. One lemma per field per state update, so that no later proof unfolds an update. -/

namespace Sys2Proof.Machine.State

variable (s : State)

@[simp] theorem setTickCounter_tickCounter (v : U16) : (s.setTickCounter v).tickCounter = v := rfl
@[simp] theorem setTickCounter_captureLatch (v : U16) : (s.setTickCounter v).captureLatch = s.captureLatch := rfl
@[simp] theorem setTickCounter_edgePending (v : U16) : (s.setTickCounter v).edgePending = s.edgePending := rfl
@[simp] theorem setTickCounter_ovfPending (v : U16) : (s.setTickCounter v).ovfPending = s.ovfPending := rfl
@[simp] theorem setTickCounter_pulses (v : U16) : (s.setTickCounter v).pulses = s.pulses := rfl
@[simp] theorem setTickCounter_overflowCount (v : U16) : (s.setTickCounter v).overflowCount = s.overflowCount := rfl
@[simp] theorem setTickCounter_prevTick (v : U16) : (s.setTickCounter v).prevTick = s.prevTick := rfl
@[simp] theorem setTickCounter_buf (v : U16) : (s.setTickCounter v).buf = s.buf := rfl
@[simp] theorem setTickCounter_cursor (v : U16) : (s.setTickCounter v).cursor = s.cursor := rfl
@[simp] theorem setTickCounter_armed (v : U16) : (s.setTickCounter v).armed = s.armed := rfl
@[simp] theorem setTickCounter_wire (v : U16) : (s.setTickCounter v).wire = s.wire := rfl
@[simp] theorem setTickCounter_stimulus (v : U16) : (s.setTickCounter v).stimulus = s.stimulus := rfl

@[simp] theorem raiseOverflow_tickCounter : (s.raiseOverflow).tickCounter = s.tickCounter := rfl
@[simp] theorem raiseOverflow_captureLatch : (s.raiseOverflow).captureLatch = s.captureLatch := rfl
@[simp] theorem raiseOverflow_edgePending : (s.raiseOverflow).edgePending = s.edgePending := rfl
@[simp] theorem raiseOverflow_ovfPending : (s.raiseOverflow).ovfPending = true := rfl
@[simp] theorem raiseOverflow_pulses : (s.raiseOverflow).pulses = s.pulses := rfl
@[simp] theorem raiseOverflow_overflowCount : (s.raiseOverflow).overflowCount = s.overflowCount := rfl
@[simp] theorem raiseOverflow_prevTick : (s.raiseOverflow).prevTick = s.prevTick := rfl
@[simp] theorem raiseOverflow_buf : (s.raiseOverflow).buf = s.buf := rfl
@[simp] theorem raiseOverflow_cursor : (s.raiseOverflow).cursor = s.cursor := rfl
@[simp] theorem raiseOverflow_armed : (s.raiseOverflow).armed = s.armed := rfl
@[simp] theorem raiseOverflow_wire : (s.raiseOverflow).wire = s.wire := rfl
@[simp] theorem raiseOverflow_stimulus : (s.raiseOverflow).stimulus = s.stimulus := rfl

@[simp] theorem captureEdge_tickCounter : (s.captureEdge).tickCounter = s.tickCounter := rfl
@[simp] theorem captureEdge_captureLatch : (s.captureEdge).captureLatch = s.tickCounter := rfl
@[simp] theorem captureEdge_edgePending : (s.captureEdge).edgePending = true := rfl
@[simp] theorem captureEdge_ovfPending : (s.captureEdge).ovfPending = s.ovfPending := rfl
@[simp] theorem captureEdge_pulses : (s.captureEdge).pulses = s.pulses := rfl
@[simp] theorem captureEdge_overflowCount : (s.captureEdge).overflowCount = s.overflowCount := rfl
@[simp] theorem captureEdge_prevTick : (s.captureEdge).prevTick = s.prevTick := rfl
@[simp] theorem captureEdge_buf : (s.captureEdge).buf = s.buf := rfl
@[simp] theorem captureEdge_cursor : (s.captureEdge).cursor = s.cursor := rfl
@[simp] theorem captureEdge_armed : (s.captureEdge).armed = s.armed := rfl
@[simp] theorem captureEdge_wire : (s.captureEdge).wire = s.wire := rfl
@[simp] theorem captureEdge_stimulus : (s.captureEdge).stimulus = s.stimulus := rfl

@[simp] theorem acceptEdge_tickCounter : (s.acceptEdge).tickCounter = s.tickCounter := rfl
@[simp] theorem acceptEdge_captureLatch : (s.acceptEdge).captureLatch = s.captureLatch := rfl
@[simp] theorem acceptEdge_edgePending : (s.acceptEdge).edgePending = false := rfl
@[simp] theorem acceptEdge_ovfPending : (s.acceptEdge).ovfPending = s.ovfPending := rfl
@[simp] theorem acceptEdge_pulses : (s.acceptEdge).pulses = s.pulses := rfl
@[simp] theorem acceptEdge_overflowCount : (s.acceptEdge).overflowCount = s.overflowCount := rfl
@[simp] theorem acceptEdge_prevTick : (s.acceptEdge).prevTick = s.prevTick := rfl
@[simp] theorem acceptEdge_buf : (s.acceptEdge).buf = s.buf := rfl
@[simp] theorem acceptEdge_cursor : (s.acceptEdge).cursor = s.cursor := rfl
@[simp] theorem acceptEdge_armed : (s.acceptEdge).armed = s.armed := rfl
@[simp] theorem acceptEdge_wire : (s.acceptEdge).wire = s.wire := rfl
@[simp] theorem acceptEdge_stimulus : (s.acceptEdge).stimulus = s.stimulus := rfl

@[simp] theorem acceptOverflow_tickCounter : (s.acceptOverflow).tickCounter = s.tickCounter := rfl
@[simp] theorem acceptOverflow_captureLatch : (s.acceptOverflow).captureLatch = s.captureLatch := rfl
@[simp] theorem acceptOverflow_edgePending : (s.acceptOverflow).edgePending = s.edgePending := rfl
@[simp] theorem acceptOverflow_ovfPending : (s.acceptOverflow).ovfPending = false := rfl
@[simp] theorem acceptOverflow_pulses : (s.acceptOverflow).pulses = s.pulses := rfl
@[simp] theorem acceptOverflow_overflowCount : (s.acceptOverflow).overflowCount = s.overflowCount := rfl
@[simp] theorem acceptOverflow_prevTick : (s.acceptOverflow).prevTick = s.prevTick := rfl
@[simp] theorem acceptOverflow_buf : (s.acceptOverflow).buf = s.buf := rfl
@[simp] theorem acceptOverflow_cursor : (s.acceptOverflow).cursor = s.cursor := rfl
@[simp] theorem acceptOverflow_armed : (s.acceptOverflow).armed = s.armed := rfl
@[simp] theorem acceptOverflow_wire : (s.acceptOverflow).wire = s.wire := rfl
@[simp] theorem acceptOverflow_stimulus : (s.acceptOverflow).stimulus = s.stimulus := rfl

@[simp] theorem setOverflowCount_tickCounter (v : U16) : (s.setOverflowCount v).tickCounter = s.tickCounter := rfl
@[simp] theorem setOverflowCount_captureLatch (v : U16) : (s.setOverflowCount v).captureLatch = s.captureLatch := rfl
@[simp] theorem setOverflowCount_edgePending (v : U16) : (s.setOverflowCount v).edgePending = s.edgePending := rfl
@[simp] theorem setOverflowCount_ovfPending (v : U16) : (s.setOverflowCount v).ovfPending = s.ovfPending := rfl
@[simp] theorem setOverflowCount_pulses (v : U16) : (s.setOverflowCount v).pulses = s.pulses := rfl
@[simp] theorem setOverflowCount_overflowCount (v : U16) : (s.setOverflowCount v).overflowCount = v := rfl
@[simp] theorem setOverflowCount_prevTick (v : U16) : (s.setOverflowCount v).prevTick = s.prevTick := rfl
@[simp] theorem setOverflowCount_buf (v : U16) : (s.setOverflowCount v).buf = s.buf := rfl
@[simp] theorem setOverflowCount_cursor (v : U16) : (s.setOverflowCount v).cursor = s.cursor := rfl
@[simp] theorem setOverflowCount_armed (v : U16) : (s.setOverflowCount v).armed = s.armed := rfl
@[simp] theorem setOverflowCount_wire (v : U16) : (s.setOverflowCount v).wire = s.wire := rfl
@[simp] theorem setOverflowCount_stimulus (v : U16) : (s.setOverflowCount v).stimulus = s.stimulus := rfl

@[simp] theorem setTracker_tickCounter (r : Report) (tick : U16) : (s.setTracker r tick).tickCounter = s.tickCounter := rfl
@[simp] theorem setTracker_captureLatch (r : Report) (tick : U16) : (s.setTracker r tick).captureLatch = s.captureLatch := rfl
@[simp] theorem setTracker_edgePending (r : Report) (tick : U16) : (s.setTracker r tick).edgePending = s.edgePending := rfl
@[simp] theorem setTracker_ovfPending (r : Report) (tick : U16) : (s.setTracker r tick).ovfPending = s.ovfPending := rfl
@[simp] theorem setTracker_pulses (r : Report) (tick : U16) : (s.setTracker r tick).pulses = r.pulses := rfl
@[simp] theorem setTracker_overflowCount (r : Report) (tick : U16) : (s.setTracker r tick).overflowCount = r.overflowCount := rfl
@[simp] theorem setTracker_prevTick (r : Report) (tick : U16) : (s.setTracker r tick).prevTick = tick := rfl
@[simp] theorem setTracker_buf (r : Report) (tick : U16) : (s.setTracker r tick).buf = s.buf := rfl
@[simp] theorem setTracker_cursor (r : Report) (tick : U16) : (s.setTracker r tick).cursor = s.cursor := rfl
@[simp] theorem setTracker_armed (r : Report) (tick : U16) : (s.setTracker r tick).armed = s.armed := rfl
@[simp] theorem setTracker_wire (r : Report) (tick : U16) : (s.setTracker r tick).wire = s.wire := rfl
@[simp] theorem setTracker_stimulus (r : Report) (tick : U16) : (s.setTracker r tick).stimulus = s.stimulus := rfl

@[simp] theorem arm_tickCounter (m : Memory) : (s.arm m).tickCounter = s.tickCounter := rfl
@[simp] theorem arm_captureLatch (m : Memory) : (s.arm m).captureLatch = s.captureLatch := rfl
@[simp] theorem arm_edgePending (m : Memory) : (s.arm m).edgePending = s.edgePending := rfl
@[simp] theorem arm_ovfPending (m : Memory) : (s.arm m).ovfPending = s.ovfPending := rfl
@[simp] theorem arm_pulses (m : Memory) : (s.arm m).pulses = s.pulses := rfl
@[simp] theorem arm_overflowCount (m : Memory) : (s.arm m).overflowCount = s.overflowCount := rfl
@[simp] theorem arm_prevTick (m : Memory) : (s.arm m).prevTick = s.prevTick := rfl
@[simp] theorem arm_buf (m : Memory) : (s.arm m).buf = m := rfl
@[simp] theorem arm_cursor (m : Memory) : (s.arm m).cursor = 0#5 := rfl
@[simp] theorem arm_armed (m : Memory) : (s.arm m).armed = true := rfl
@[simp] theorem arm_wire (m : Memory) : (s.arm m).wire = s.wire := rfl
@[simp] theorem arm_stimulus (m : Memory) : (s.arm m).stimulus = s.stimulus := rfl

@[simp] theorem disarm_tickCounter : (s.disarm).tickCounter = s.tickCounter := rfl
@[simp] theorem disarm_captureLatch : (s.disarm).captureLatch = s.captureLatch := rfl
@[simp] theorem disarm_edgePending : (s.disarm).edgePending = s.edgePending := rfl
@[simp] theorem disarm_ovfPending : (s.disarm).ovfPending = s.ovfPending := rfl
@[simp] theorem disarm_pulses : (s.disarm).pulses = s.pulses := rfl
@[simp] theorem disarm_overflowCount : (s.disarm).overflowCount = s.overflowCount := rfl
@[simp] theorem disarm_prevTick : (s.disarm).prevTick = s.prevTick := rfl
@[simp] theorem disarm_buf : (s.disarm).buf = s.buf := rfl
@[simp] theorem disarm_cursor : (s.disarm).cursor = 0#5 := rfl
@[simp] theorem disarm_armed : (s.disarm).armed = false := rfl
@[simp] theorem disarm_wire : (s.disarm).wire = s.wire := rfl
@[simp] theorem disarm_stimulus : (s.disarm).stimulus = s.stimulus := rfl

@[simp] theorem send_tickCounter (b : Byte) : (s.send b).tickCounter = s.tickCounter := rfl
@[simp] theorem send_captureLatch (b : Byte) : (s.send b).captureLatch = s.captureLatch := rfl
@[simp] theorem send_edgePending (b : Byte) : (s.send b).edgePending = s.edgePending := rfl
@[simp] theorem send_ovfPending (b : Byte) : (s.send b).ovfPending = s.ovfPending := rfl
@[simp] theorem send_pulses (b : Byte) : (s.send b).pulses = s.pulses := rfl
@[simp] theorem send_overflowCount (b : Byte) : (s.send b).overflowCount = s.overflowCount := rfl
@[simp] theorem send_prevTick (b : Byte) : (s.send b).prevTick = s.prevTick := rfl
@[simp] theorem send_buf (b : Byte) : (s.send b).buf = s.buf := rfl
@[simp] theorem send_cursor (b : Byte) : (s.send b).cursor = s.cursor := rfl
@[simp] theorem send_armed (b : Byte) : (s.send b).armed = s.armed := rfl
@[simp] theorem send_wire (b : Byte) : (s.send b).wire = s.wire ++ [b] := rfl
@[simp] theorem send_stimulus (b : Byte) : (s.send b).stimulus = s.stimulus := rfl

@[simp] theorem advanceCursor_tickCounter : (s.advanceCursor).tickCounter = s.tickCounter := rfl
@[simp] theorem advanceCursor_captureLatch : (s.advanceCursor).captureLatch = s.captureLatch := rfl
@[simp] theorem advanceCursor_edgePending : (s.advanceCursor).edgePending = s.edgePending := rfl
@[simp] theorem advanceCursor_ovfPending : (s.advanceCursor).ovfPending = s.ovfPending := rfl
@[simp] theorem advanceCursor_pulses : (s.advanceCursor).pulses = s.pulses := rfl
@[simp] theorem advanceCursor_overflowCount : (s.advanceCursor).overflowCount = s.overflowCount := rfl
@[simp] theorem advanceCursor_prevTick : (s.advanceCursor).prevTick = s.prevTick := rfl
@[simp] theorem advanceCursor_buf : (s.advanceCursor).buf = s.buf := rfl
@[simp] theorem advanceCursor_cursor : (s.advanceCursor).cursor = s.cursor + 1#5 := rfl
@[simp] theorem advanceCursor_armed : (s.advanceCursor).armed = s.armed := rfl
@[simp] theorem advanceCursor_wire : (s.advanceCursor).wire = s.wire := rfl
@[simp] theorem advanceCursor_stimulus : (s.advanceCursor).stimulus = s.stimulus := rfl

@[simp] theorem setStimulus_tickCounter (codes : List Byte) : (s.setStimulus codes).tickCounter = s.tickCounter := rfl
@[simp] theorem setStimulus_captureLatch (codes : List Byte) : (s.setStimulus codes).captureLatch = s.captureLatch := rfl
@[simp] theorem setStimulus_edgePending (codes : List Byte) : (s.setStimulus codes).edgePending = s.edgePending := rfl
@[simp] theorem setStimulus_ovfPending (codes : List Byte) : (s.setStimulus codes).ovfPending = s.ovfPending := rfl
@[simp] theorem setStimulus_pulses (codes : List Byte) : (s.setStimulus codes).pulses = s.pulses := rfl
@[simp] theorem setStimulus_overflowCount (codes : List Byte) : (s.setStimulus codes).overflowCount = s.overflowCount := rfl
@[simp] theorem setStimulus_prevTick (codes : List Byte) : (s.setStimulus codes).prevTick = s.prevTick := rfl
@[simp] theorem setStimulus_buf (codes : List Byte) : (s.setStimulus codes).buf = s.buf := rfl
@[simp] theorem setStimulus_cursor (codes : List Byte) : (s.setStimulus codes).cursor = s.cursor := rfl
@[simp] theorem setStimulus_armed (codes : List Byte) : (s.setStimulus codes).armed = s.armed := rfl
@[simp] theorem setStimulus_wire (codes : List Byte) : (s.setStimulus codes).wire = s.wire := rfl
@[simp] theorem setStimulus_stimulus (codes : List Byte) : (s.setStimulus codes).stimulus = codes := rfl

@[simp] theorem resetBlock_tickCounter : (resetBlock s).tickCounter = Config.tickReset := rfl
@[simp] theorem resetBlock_captureLatch : (resetBlock s).captureLatch = 0#16 := rfl
@[simp] theorem resetBlock_edgePending : (resetBlock s).edgePending = false := rfl
@[simp] theorem resetBlock_ovfPending : (resetBlock s).ovfPending = false := rfl
@[simp] theorem resetBlock_pulses : (resetBlock s).pulses = 0#16 := rfl
@[simp] theorem resetBlock_overflowCount : (resetBlock s).overflowCount = 0#16 := rfl
@[simp] theorem resetBlock_prevTick : (resetBlock s).prevTick = 0#16 := rfl
@[simp] theorem resetBlock_buf : (resetBlock s).buf = [] := rfl
@[simp] theorem resetBlock_cursor : (resetBlock s).cursor = 0#5 := rfl
@[simp] theorem resetBlock_armed : (resetBlock s).armed = false := rfl
@[simp] theorem resetBlock_wire : (resetBlock s).wire = s.wire := rfl
@[simp] theorem resetBlock_stimulus : (resetBlock s).stimulus = s.stimulus := rfl

end Sys2Proof.Machine.State
end

