-- ==== Sys2Proof/Laws/Memory.lean ====
section
/-! SUPPORT. The laws of the message buffer: read after write, and every operation keeps the canonical form. -/

namespace Sys2Proof.Machine

theorem Memory.wfFrom_cons {lo k : Nat} {v : Byte} {m : Memory} :
    Memory.wfFrom lo ((k, v) :: m) = true ↔
      lo ≤ k ∧ k < Config.bufLen ∧ v ≠ Config.term ∧ Memory.wfFrom (k + 1) m = true := by
  simp [Memory.wfFrom, and_assoc]

theorem Memory.wfFrom_mono {lo lo' : Nat} {m : Memory} (h : Memory.wfFrom lo m = true) (hle : lo' ≤ lo) :
    Memory.wfFrom lo' m = true := by
  cases m with
  | nil => rfl
  | cons c m =>
    obtain ⟨h1, h2⟩ := Memory.wfFrom_cons.mp h
    exact Memory.wfFrom_cons.mpr ⟨Nat.le_trans hle h1, h2⟩

/-- Below its lowest entry a canonical buffer reads `TERM`. -/
theorem Memory.read_below {m : Memory} {lo a : Nat} (h : Memory.wfFrom lo m = true) (ha : a < lo) :
    m.read a = Config.term := by
  induction m generalizing lo with
  | nil => rfl
  | cons c m ih =>
    obtain ⟨k, v⟩ := c
    obtain ⟨h1, -, -, h4⟩ := Memory.wfFrom_cons.mp h
    have hk : k ≠ a := by omega
    simp [Memory.read, hk, ih h4 (by omega)]

/-- Outside the address space a canonical buffer reads `TERM`: nothing is listed there. -/
theorem Memory.read_outside {m : Memory} {lo a : Nat} (h : Memory.wfFrom lo m = true) (ha : Config.bufLen ≤ a) :
    m.read a = Config.term := by
  induction m generalizing lo with
  | nil => rfl
  | cons c m ih =>
    obtain ⟨k, v⟩ := c
    obtain ⟨-, h2, -, h4⟩ := Memory.wfFrom_cons.mp h
    have hk : k ≠ a := by omega
    simp [Memory.read, hk, ih h4]

theorem Memory.read_write_from {m : Memory} {lo : Nat} (h : Memory.wfFrom lo m = true) (a : Nat) (b : Byte) (x : Nat) :
    (m.write a b).read x = if x = a then b else m.read x := by
  induction m generalizing lo with
  | nil =>
    by_cases hx : x = a
    · by_cases hb : b = Config.term <;> simp [Memory.write, Memory.read, hb, hx]
    · by_cases hb : b = Config.term <;> simp [Memory.write, Memory.read, hb, hx, Ne.symm hx]
  | cons c m ih =>
    obtain ⟨k, v⟩ := c
    obtain ⟨-, -, -, h4⟩ := Memory.wfFrom_cons.mp h
    rcases Nat.lt_trichotomy k a with hka | hka | hka
    · by_cases hx : x = a
      · subst hx
        have : k ≠ x := by omega
        simp [Memory.write, Memory.read, hka, this, ih h4]
      · simp [Memory.write, Memory.read, hka, hx, ih h4]
    · subst hka
      have hbelow := Memory.read_below h4 (Nat.lt_succ_self k)
      by_cases hb : b = Config.term
      · by_cases hx : x = k
        · subst hx
          simp [Memory.write, hb, hbelow]
        · simp [Memory.write, Memory.read, hb, hx, Ne.symm hx]
      · by_cases hx : x = k
        · simp [Memory.write, Memory.read, hb, hx]
        · simp [Memory.write, Memory.read, hb, hx, Ne.symm hx]
    · have h1 : ¬ k < a := by omega
      have h2 : k ≠ a := by omega
      have hbelow : Memory.read m a = Config.term := Memory.read_below h4 (by omega)
      by_cases hb : b = Config.term
      · by_cases hx : x = a
        · subst hx
          simp [Memory.write, Memory.read, h1, h2, hb, hbelow]
        · simp [Memory.write, h1, h2, hb, hx]
      · by_cases hx : x = a
        · simp [Memory.write, Memory.read, h1, h2, hb, hx]
        · simp [Memory.write, Memory.read, h1, h2, hb, hx, Ne.symm hx]

/-- A read after a write of a canonical buffer: the byte written there, every other location as it was. -/
theorem Memory.read_write {m : Memory} (h : m.wf = true) (a : Nat) (b : Byte) (x : Nat) :
    (m.write a b).read x = if x = a then b else m.read x :=
  Memory.read_write_from h a b x

theorem Memory.write_wfFrom {m : Memory} {lo a : Nat} {b : Byte} (h : Memory.wfFrom lo m = true) (hlo : lo ≤ a)
    (ha : a < Config.bufLen) : Memory.wfFrom lo (m.write a b) = true := by
  induction m generalizing lo with
  | nil =>
    by_cases hb : b = Config.term
    · simp [Memory.write, hb, Memory.wfFrom]
    · simp only [Memory.write, hb, if_false]
      exact Memory.wfFrom_cons.mpr ⟨hlo, ha, hb, rfl⟩
  | cons c m ih =>
    obtain ⟨k, v⟩ := c
    obtain ⟨h1, h2, h3, h4⟩ := Memory.wfFrom_cons.mp h
    rcases Nat.lt_trichotomy k a with hka | hka | hka
    · simp only [Memory.write, hka, if_true]
      exact Memory.wfFrom_cons.mpr ⟨h1, h2, h3, ih h4 hka⟩
    · subst hka
      by_cases hb : b = Config.term
      · simp only [Memory.write, Nat.lt_irrefl, if_false, if_true, hb]
        exact Memory.wfFrom_mono h4 (by omega)
      · simp only [Memory.write, Nat.lt_irrefl, if_false, if_true, hb]
        exact Memory.wfFrom_cons.mpr ⟨h1, h2, hb, h4⟩
    · have n1 : ¬ k < a := by omega
      have n2 : k ≠ a := by omega
      by_cases hb : b = Config.term
      · simpa only [Memory.write, n1, n2, if_false, if_true, hb] using h
      · simp only [Memory.write, n1, n2, if_false, hb]
        exact Memory.wfFrom_cons.mpr ⟨hlo, ha, hb, Memory.wfFrom_cons.mpr ⟨hka, h2, h3, h4⟩⟩

/-- A write inside the address space keeps the canonical form. -/
theorem Memory.write_wf {m : Memory} {a : Nat} {b : Byte} (h : m.wf = true) (ha : a < Config.bufLen) :
    (m.write a b).wf = true :=
  Memory.write_wfFrom h (Nat.zero_le a) ha

/-- `BufRead` answers exactly below `BUF_LEN`, with the byte there (R51). -/
theorem bufRead_eq_some {m : Memory} {i : Nat} {b : Byte} :
    bufRead m i = some b ↔ i < Config.bufLen ∧ m.read i = b := by
  by_cases h : i < Config.bufLen <;> simp [bufRead, h]

/-- All that `BufWrite` does (R51): it answers only below `BUF_LEN`, keeps the canonical form, and changes one
location. -/
theorem bufWrite_spec {m m' : Memory} {i : Nat} {b : Byte} (hm : m.wf = true) (h : bufWrite m i b = some m') :
    i < Config.bufLen ∧ m'.wf = true ∧ ∀ x, m'.read x = if x = i then b else m.read x := by
  by_cases hi : i < Config.bufLen
  · simp only [bufWrite, hi, if_true, Option.some.injEq] at h
    subst h
    exact ⟨hi, Memory.write_wf hm hi, Memory.read_write hm i b⟩
  · simp [bufWrite, hi] at h

/-- All that the loop of `LOAD` does: the bytes stand at ascending indices from `i`, every other location is kept. -/
theorem bufWriteAll_spec {bs : List Byte} {m m' : Memory} {i : Nat} (hm : m.wf = true)
    (h : bufWriteAll m i bs = some m') :
    m'.wf = true ∧ ∀ x, m'.read x = if hx : i ≤ x ∧ x < i + bs.length then bs[x - i] else m.read x := by
  induction bs generalizing m i with
  | nil =>
    simp only [bufWriteAll, Option.some.injEq] at h
    subst h
    refine ⟨hm, fun x => ?_⟩
    simp only [List.length_nil, Nat.add_zero]
    rw [dif_neg (by omega)]
  | cons b bs ih =>
    cases hw : bufWrite m i b with
    | none => simp [bufWriteAll, hw] at h
    | some m1 =>
      simp only [bufWriteAll, hw] at h
      obtain ⟨-, hm1, hr1⟩ := bufWrite_spec hm hw
      obtain ⟨hm', hr⟩ := ih hm1 h
      refine ⟨hm', fun x => ?_⟩
      rw [hr x, hr1 x]
      rcases Nat.lt_trichotomy x i with hx | hx | hx
      · rw [dif_neg (by omega), dif_neg (by omega), if_neg (by omega)]
      · subst hx
        rw [dif_neg (by omega), dif_pos (by simp), if_pos rfl]
        simp
      · by_cases hin : x < i + (b :: bs).length
        · rw [dif_pos (by simp at hin ⊢; omega), dif_pos (by omega)]
          obtain ⟨d, hd⟩ : ∃ d, x - i = d + 1 := ⟨x - i - 1, by omega⟩
          have : x - (i + 1) = d := by omega
          simp [hd, this]
        · rw [dif_neg (by simp at hin ⊢; omega), dif_neg (by omega), if_neg (by omega)]

/-- The loop of `LOAD` answers whenever its bytes fit. -/
theorem bufWriteAll_completes {bs : List Byte} {m : Memory} {i : Nat} (h : i + bs.length ≤ Config.bufLen) :
    ∃ m', bufWriteAll m i bs = some m' := by
  induction bs generalizing m i with
  | nil => exact ⟨m, rfl⟩
  | cons b bs ih =>
    have hlen : i + 1 + bs.length ≤ Config.bufLen := by simp at h; omega
    have hi : i < Config.bufLen := by omega
    obtain ⟨m', hm'⟩ := ih (m := m.write i b) hlen
    exact ⟨m', by simp [bufWriteAll, bufWrite, hi, hm']⟩

theorem bufBytes_length (m : Memory) (n : Nat) : (bufBytes m n).length = n := by simp [bufBytes]

theorem bufBytes_getElem (m : Memory) (n i : Nat) (h : i < (bufBytes m n).length) : (bufBytes m n)[i] = m.read i := by
  simp [bufBytes]

/-- A buffer that reads as a line at index 0 on holds that line's bytes. -/
theorem bufBytes_eq_of_read {m : Memory} {l : List Byte} (h : ∀ x (hx : x < l.length), m.read x = l[x]) :
    bufBytes m l.length = l := by
  apply List.ext_getElem
  · exact bufBytes_length m l.length
  · intro i h1 h2
    rw [bufBytes_getElem, h i h2]

/-- A canonical buffer that reads `TERM` everywhere lists nothing. -/
theorem Memory.eq_nil_of_reads_term {m : Memory} (hm : m.wf = true) (h : ∀ x, m.read x = Config.term) : m = [] := by
  cases m with
  | nil => rfl
  | cons c m =>
    obtain ⟨k, v⟩ := c
    obtain ⟨-, -, hv, -⟩ := Memory.wfFrom_cons.mp hm
    exact absurd (by simpa [Memory.read] using h k) hv

/-- The 22 `BufWrite`s of `TERM` that `RESET` makes (R210) leave the cleared buffer. -/
theorem bufWriteAll_term_clears {m : Memory} (hm : m.wf = true) :
    bufWriteAll m 0 (List.replicate Config.bufLen Config.term) = some clearedBuffer := by
  obtain ⟨m', h⟩ := bufWriteAll_completes (bs := List.replicate Config.bufLen Config.term) (m := m) (i := 0) (by simp)
  obtain ⟨hm', hr⟩ := bufWriteAll_spec hm h
  rw [h, Memory.eq_nil_of_reads_term hm' (fun x => ?_)]
  · rfl
  · by_cases hx : x < Config.bufLen
    · rw [hr x, dif_pos (by simpa using hx)]
      simp
    · exact Memory.read_outside hm' (by omega)

/-- The buffer at reset is canonical. -/
theorem reset_buf_wf : State.reset.buf.wf = true := rfl

end Sys2Proof.Machine
end

