-- ==== Sys2Proof/Laws/Handlers.lean ====
section
/-! SUPPORT. For each shared operation one lemma that says all it can do: `LOAD`, `H_TX`, `H_OVF`, `H_EDGE`, and
for each meaning with a condition one that says when it answers and with what. -/

namespace Sys2Proof.Machine

theorem andThen_eq_next {o : Host.Outcome State Fault Refusal} {f : State → Host.Outcome State Fault Refusal}
    {t : State} : andThen o f = .next t ↔ ∃ s, o = .next s ∧ f s = .next t := by
  cases o <;> simp [andThen]

/-- All that `LOAD` does when it answers (R160): the Transmitter is armed and rewound on a canonical buffer that holds
the message and its terminator, with every later byte kept. -/
theorem load_spec {msg : List Byte} {s t : State} (hs : s.buf.wf = true) (h : load msg s = .next t) :
    ∃ m, t = s.arm m ∧ m.wf = true ∧
      ∀ x, m.read x = if hx : x < (msg ++ [Config.term]).length then (msg ++ [Config.term])[x] else s.buf.read x := by
  cases hw : bufWriteAll s.buf 0 (msg ++ [Config.term]) with
  | none => simp [load, hw] at h
  | some m =>
    simp only [load, hw, Host.Outcome.next.injEq] at h
    obtain ⟨hm, hr⟩ := bufWriteAll_spec hs hw
    refine ⟨m, h.symm, hm, fun x => ?_⟩
    simpa using hr x

/-- `LOAD` answers for every message that fits with its terminator. -/
theorem load_completes {msg : List Byte} (s : State) (h : msg.length ≤ 21) :
    ∃ m, bufWriteAll s.buf 0 (msg ++ [Config.term]) = some m ∧ load msg s = .next (s.arm m) := by
  obtain ⟨m, hm⟩ := bufWriteAll_completes (bs := msg ++ [Config.term]) (m := s.buf) (i := 0)
    (by simp [Config.bufLen]; omega)
  exact ⟨m, hm, by simp [load, hm]⟩

/-- All that `H_TX` does when it answers (R161). -/
theorem hTx_spec {s t : State} (h : hTx s = .next t) :
    s.cursor.toNat < Config.bufLen ∧
      ((s.buf.read s.cursor.toNat = Config.term ∧ t = s.disarm) ∨
        (s.buf.read s.cursor.toNat ≠ Config.term ∧ t = (s.send (s.buf.read s.cursor.toNat)).advanceCursor)) := by
  by_cases hc : s.cursor.toNat < Config.bufLen
  · refine ⟨hc, ?_⟩
    by_cases hb : s.buf.read s.cursor.toNat = Config.term
    · left
      simp [hTx, byteAtCursor, cursorIndex, bufRead, hc, isTerminator, hb] at h
      exact ⟨hb, h.symm⟩
    · right
      simp [hTx, byteAtCursor, cursorIndex, bufRead, hc, isTerminator, hb] at h
      exact ⟨hb, h.symm⟩
  · simp [hTx, byteAtCursor, cursorIndex, bufRead, hc] at h

/-- `H_TX` answers whenever the cursor is inside the buffer. -/
theorem hTx_completes {s : State} (h : s.cursor.toNat < Config.bufLen) : ∃ t, hTx s = .next t := by
  simp [hTx, byteAtCursor, cursorIndex, bufRead, h]

/-- All that `H_EDGE(tick)` does when it answers (R122). -/
theorem hEdge_spec {tick : U16} {s t : State} (hs : s.buf.wf = true) (h : hEdge tick s = .next t) :
    ∃ m, t = ((s.setTracker (edgeReport tick s) tick).arm m).setOverflowCount 0#16 ∧ m.wf = true ∧
      ∀ x, m.read x =
        if hx : x < (fmtReport (edgeReport tick s) ++ [Config.term]).length
        then (fmtReport (edgeReport tick s) ++ [Config.term])[x] else s.buf.read x := by
  obtain ⟨u, hu, ht⟩ := andThen_eq_next.mp h
  obtain ⟨m, rfl, hm, hr⟩ := load_spec (by simpa using hs) hu
  exact ⟨m, (by simpa using ht.symm), hm, by simpa using hr⟩

/-- `H_EDGE` answers in every state: every formatted report fits the buffer (R129, R144). -/
theorem hEdge_completes (tick : U16) (s : State) : ∃ t, hEdge tick s = .next t := by
  obtain ⟨m, -, hl⟩ := load_completes (s.setTracker (edgeReport tick s) tick) (fmtReport_length_le (edgeReport tick s))
  exact ⟨_, andThen_eq_next.mpr ⟨_, hl, rfl⟩⟩

/-- All that `TICK` does (R100): it answers in every state. -/
theorem execTick_spec {s t : State} (h : execTick s = .next t) :
    (s.tickCounter = 0xFFFF#16 ∧ t = (s.setTickCounter 0#16).raiseOverflow) ∨
      (s.tickCounter ≠ 0xFFFF#16 ∧ t = s.setTickCounter (s.tickCounter + 1#16)) := by
  by_cases hc : s.tickCounter = 0xFFFF#16
  · simp [execTick, counterAtTop, hc] at h
    exact .inl ⟨hc, h.symm⟩
  · simp [execTick, counterAtTop, hc] at h
    exact .inr ⟨hc, h.symm⟩

/-- The guard of `SVC_OVF` (R121). -/
theorem svcOvfEnabled_eq_true {s : State} : svcOvfEnabled s = true ↔ s.ovfPending = true ∧ s.edgePending = false := by
  simp [svcOvfEnabled, svcOvfEnabledAt, Config.strictEdgePriority]

/-- All that `SVC_OVF` does when it answers (R121). -/
theorem execSvcOvf_spec {s t : State} (h : execSvcOvf s = .next t) :
    s.ovfPending = true ∧ s.edgePending = false ∧ t = hOvf s.acceptOverflow := by
  by_cases hg : svcOvfEnabled s = true
  · simp only [execSvcOvf, hg, if_true, Host.Outcome.next.injEq] at h
    obtain ⟨h1, h2⟩ := svcOvfEnabled_eq_true.mp hg
    exact ⟨h1, h2, h.symm⟩
  · simp [execSvcOvf, hg] at h

/-- All that `SVC_EDGE` does when it answers (R123): an Edge was pending, and `H_EDGE(captureLatch)` ran. -/
theorem execSvcEdge_spec {s t : State} (h : execSvcEdge s = .next t) :
    s.edgePending = true ∧ hEdge s.captureLatch s.acceptEdge = .next t := by
  by_cases hg : s.edgePending = true
  · exact ⟨hg, by simpa [execSvcEdge, svcEdgeEnabled, hg, edgeTick] using h⟩
  · simp [execSvcEdge, svcEdgeEnabled, hg] at h

/-- `SVC_EDGE` answers in every state with an Edge pending. -/
theorem execSvcEdge_completes {s : State} (h : s.edgePending = true) : ∃ t, execSvcEdge s = .next t := by
  obtain ⟨t, ht⟩ := hEdge_completes s.captureLatch s.acceptEdge
  exact ⟨t, by simpa [execSvcEdge, svcEdgeEnabled, h, edgeTick] using ht⟩

/-- All that `TXRDY` does when it answers (R162). -/
theorem execTxrdy_spec {s t : State} (h : execTxrdy s = .next t) :
    (s.armed = false ∧ t = s) ∨ (s.armed = true ∧ hTx s = .next t) := by
  by_cases ha : s.armed = true
  · exact .inr ⟨ha, by simpa [execTxrdy, ha] using h⟩
  · simp [execTxrdy, ha] at h
    exact .inl ⟨by simpa using ha, h.symm⟩

end Sys2Proof.Machine
end

