-- ==== Sys2Proof/Laws/PerInstr.lean ====
section
/-! SUPPORT. The statements made instruction by instruction: each family's Statement and one lemma per constructor. -/

/-- The operation is well formed, and its bytes decode to it whatever bytes follow them (R77, R78). -/
def Sys2Proof.Laws.EncodingRoundTrip.Statement (i : Sys2Proof.Instr) : Prop :=
  i.wellFormed = true ∧ ∀ rest, Sys2Proof.decode (Sys2Proof.encode i ++ rest) = .ok (i, rest)

namespace Sys2Proof.Laws.EncodingRoundTrip

theorem reset : Statement .reset := ⟨rfl, fun _ => rfl⟩

theorem tick : Statement .tick := ⟨rfl, fun _ => rfl⟩

theorem fall : Statement .fall := ⟨rfl, fun _ => rfl⟩

theorem svcEdge : Statement .svcEdge := ⟨rfl, fun _ => rfl⟩

theorem svcOvf : Statement .svcOvf := ⟨rfl, fun _ => rfl⟩

theorem txrdy : Statement .txrdy := ⟨rfl, fun _ => rfl⟩

end Sys2Proof.Laws.EncodingRoundTrip
end

