-- ==== Sys2Proof/Tests/Slice0.lean ====
section
/-! SUPPORT. The model's own tests: event codes written out from the spec, ill-formed terms the checks refuse, one-step
vectors of spec/95_test_vectors.md, and for each statement with hypotheses a state and operands that meet them. -/

namespace Sys2Proof.Tests

open Sys2Proof.Machine Sys2Proof.Safety

/-! ## Codes, written out bit by bit from spec/30_encoding.md R78 -/

theorem test_code_reset : decode [0b00000000#8] = .ok (.reset, []) := by decide
theorem test_code_tick : decode [0b00000001#8, 0b00000101#8] = .ok (.tick, [0b00000101#8]) := by decide
theorem test_code_fall : decode [0b00000010#8] = .ok (.fall, []) := by decide
theorem test_code_svcEdge : decode [0b00000011#8] = .ok (.svcEdge, []) := by decide
theorem test_code_svcOvf : decode [0b00000100#8] = .ok (.svcOvf, []) := by decide
theorem test_code_txrdy : decode [0b00000101#8] = .ok (.txrdy, []) := by decide
/-- V11: the stimulus `00 01 06` is refused at its third byte. -/
theorem test_reserved_code_refused :
    decodeStimulus [0x00#8, 0x01#8, 0x06#8] = .error (.reservedCode 0x06#8) := by decide
/-- V11: the nearest accepted stimulus is `00 01 05`. -/
theorem test_assigned_codes_accepted :
    decodeStimulus [0x00#8, 0x01#8, 0x05#8] = .ok [.reset, .tick, .txrdy] := by decide
theorem test_table_word : decodeTableWord 8 0x04 = some .svcOvf ∧ decodeTableWord 8 0x06 = none := by decide

/-! ## Ill-formed terms, one for each check -/

theorem test_wf_operation : ∀ i : Instr, i.wellFormed = true := by intro i; cases i <;> rfl
theorem test_illformed_stimulus : stimulusWellFormed [0x02#8, 0x06#8] = false := by decide
theorem test_illformed_message_short : messageWellFormed (List.replicate 8 0x54#8) = false := by decide
theorem test_illformed_message_long : messageWellFormed (List.replicate 22 0x54#8) = false := by decide
theorem test_illformed_message_terminator :
    messageWellFormed (List.replicate 8 0x54#8 ++ [0x00#8]) = false := by decide
theorem test_wellformed_message_bounds :
    messageWellFormed (List.replicate 9 0x54#8) = true ∧ messageWellFormed (List.replicate 21 0x54#8) = true := by
  decide
theorem test_not_a_message_byte : isMessageByte 0x2F#8 = false ∧ isMessageByte 0x3A#8 = false := by decide
theorem test_illformed_memory_unsorted : Memory.wf [(3, 0x54#8), (2, 0x20#8)] = false := by decide
theorem test_illformed_memory_outside : Memory.wf [(22, 0x54#8)] = false := by decide
theorem test_illformed_memory_terminator : Memory.wf [(0, 0x00#8)] = false := by decide

/-! ## One step on small states -/

/-- The state a run answers, if it answers one. -/
def answer (ops : List Instr) (s : State) : Option State :=
  match runOps ops s with
  | .next t => some t
  | .fault _ => none
  | .refused _ => none

theorem runOps_eq_next_of_answer {ops : List Instr} {s t : State} (h : answer ops s = some t) :
    runOps ops s = .next t := by
  unfold answer at h
  split at h <;> simp_all

theorem exists_next_of_answers {ops : List Instr} {s : State} (h : (answer ops s).isSome = true) :
    ∃ t, runOps ops s = .next t := by
  obtain ⟨t, ht⟩ := Option.isSome_iff_exists.mp h
  exact ⟨t, runOps_eq_next_of_answer ht⟩

/-- A state with the registers of a vector; the buffer holds `line` from index 0. -/
def withLine (line : List Byte) (cursor : U5) (armed : Bool) : State :=
  { State.reset with
    buf := (List.range line.length).zip line, cursor := cursor, armed := armed }

/-- "T 1 0 100" with CR LF, the message of S-D. -/
def lineSD : List Byte := [0x54#8, 0x20#8, 0x31#8, 0x20#8, 0x30#8, 0x20#8, 0x31#8, 0x30#8, 0x30#8, 0x0D#8, 0x0A#8]

/-- "T 2 0 200" with CR LF (S-B). -/
def lineSB : List Byte := [0x54#8, 0x20#8, 0x32#8, 0x20#8, 0x30#8, 0x20#8, 0x32#8, 0x30#8, 0x30#8, 0x0D#8, 0x0A#8]

/-- The state before the second service of Scenario B (V5, first row). -/
def beforeSB : State :=
  { State.reset with edgePending := true, captureLatch := 300#16, prevTick := 100#16, pulses := 1#16 }

/-- Both events pending (V5, second row). -/
def bothPending : State :=
  { State.reset with edgePending := true, ovfPending := true, captureLatch := 50#16, prevTick := 100#16, pulses := 1#16 }

/-- V1: 0xFFFF wraps to 0 and marks the Overflow pending. -/
theorem test_tick_wraps :
    exec .tick { State.reset with tickCounter := 0xFFFF#16 } = .next { State.reset with ovfPending := true } := rfl
/-- V1: a tick that does not wrap never clears the flag. -/
theorem test_tick_keeps_flag :
    exec .tick { State.reset with tickCounter := 5#16, ovfPending := true } =
      .next { State.reset with tickCounter := 6#16, ovfPending := true } := rfl
/-- V2: capture overrun, tick 7 is lost. -/
theorem test_fall_overrun :
    exec .fall { State.reset with tickCounter := 12#16, captureLatch := 7#16, edgePending := true } =
      .next { State.reset with tickCounter := 12#16, captureLatch := 12#16, edgePending := true } := rfl
/-- V3: the count wraps silently. -/
theorem test_svcOvf_wraps :
    exec .svcOvf { State.reset with ovfPending := true, overflowCount := 0xFFFF#16 } = .next State.reset := rfl
/-- V3: Edge has priority. -/
theorem test_svcOvf_waits_for_edge : exec .svcOvf bothPending = .refused .overflowNotServiceable := rfl
/-- V5, first row. -/
theorem test_svcEdge_scenario_B :
    exec .svcEdge beforeSB =
      .next { State.reset with
        captureLatch := 300#16, prevTick := 300#16, pulses := 2#16, armed := true,
        buf := (List.range 11).zip lineSB } := rfl
/-- V4, last row: the widest report, 65535 in each field. -/
theorem test_svcEdge_widest_report :
    edgeReport 65535#16 { State.reset with pulses := 65534#16, overflowCount := 65535#16 } =
      { pulses := 65535#16, overflowCount := 65535#16, delta := 65535#16 } := by decide
/-- V9: the last byte of a line is sent. -/
theorem test_txrdy_sends :
    exec .txrdy (withLine lineSD 10#5 true) = .next { withLine lineSD 11#5 true with wire := [0x0A#8] } := rfl
/-- V9: the terminator disarms and sends nothing. -/
theorem test_txrdy_disarms : exec .txrdy (withLine lineSD 11#5 true) = .next (withLine lineSD 0#5 false) := rfl
/-- V10: every field at its reset value, the wire kept. -/
theorem test_reset_keeps_wire :
    exec .reset { withLine lineSD 4#5 true with
      tickCounter := 0x1234#16, edgePending := true, ovfPending := true, overflowCount := 3#16, wire := [0x54#8] } =
      .next { State.reset with wire := [0x54#8] } := rfl
/-- V8: stale bytes stay beyond the new terminator. -/
theorem test_load_keeps_stale_bytes :
    load [0x54#8, 0x20#8] (withLine lineSD 3#5 true) =
      .next { withLine lineSD 0#5 true with
        buf := [(0, 0x54#8), (1, 0x20#8), (3, 0x20#8), (4, 0x30#8), (5, 0x20#8), (6, 0x31#8), (7, 0x30#8), (8, 0x30#8),
          (9, 0x0D#8), (10, 0x0A#8)] } := rfl
/-- V6. -/
theorem test_dec_65485 : dec 65485#16 = [0x36#8, 0x35#8, 0x34#8, 0x38#8, 0x35#8] := by decide
/-- The step runs the placed code first. -/
theorem test_step_runs_placed_word :
    step (State.reset.withFetchWord 8 0x02) = exec .fall State.reset := rfl
/-- R102: a rising transition is no event. -/
theorem test_rising_transition : inputOps (.sigIn .low .high) = [] := rfl
/-- R82: a script with a comment, a blank line and pseudo-operations. -/
theorem test_script :
    assemble ['T', 'I', 'C', 'K', 'N', ' ', '0', 'x', '2', ' ', ';', 'a', '\n', '\n', 'P', 'U', 'L', 'S', 'E'] =
      .ok [0x01#8, 0x01#8, 0x02#8, 0x03#8] := by decide
/-- R81: a line that is no operation is refused by its number. -/
theorem test_script_bad_line : assemble ['\n', 't', 'i', 'c', 'k'] = .error (.badLine 2) := by decide
/-- R107 and R224: the informative figures (2 s, 9.4 ms, 21.9 ms; 8.4 ms and 19.7 ms with 9 bits; 106 and 45 per
second). -/
theorem test_timing_figures :
    cycleSeconds = 2 ∧ cycleSeconds * Config.tickFrequencyHz = wrapTicks ∧ unitBits = 10 ∧
    lineMicroseconds unitBits 9 = 9375 ∧ lineMicroseconds unitBits 21 = 21875 ∧
    lineMicroseconds 9 9 = 8437 ∧ lineMicroseconds 9 21 = 19687 ∧
    sustainableEdgesPerSecond 9 = 106 ∧ sustainableEdgesPerSecond 21 = 45 := by decide

/-! ## Witnesses: for each statement with hypotheses, a state and operands that meet all of them -/

theorem witness_ReservedCodesAreRefused :
    stimulusWellFormed [0x00#8, 0x05#8] = true ∧ 0x06 ≤ (0x06#8 : Byte).toNat ∧ 0x06 ≤ (0xFF#8 : Byte).toNat := by decide
theorem witness_StepRunsTheDecodedOperation :
    decode { State.reset with stimulus := [0x05#8, 0x06#8] }.stimulus = .ok (.txrdy, [0x06#8]) ∧
    Instr.txrdy.wellFormed = true := by decide
theorem witness_StepRunsTheDecodedOperation_reserved :
    { State.reset with stimulus := [0x06#8] }.stimulus = 0x06#8 :: [] ∧ 0x06 ≤ (0x06#8 : Byte).toNat := by decide
theorem witness_StepRunsTheDecodedOperation_idle : State.reset.stimulus = [] := rfl
theorem witness_SteppingAStimulusAppliesItsOperations :
    decodeStimulus [0x01#8, 0x02#8, 0x03#8] = .ok [.tick, .fall, .svcEdge] := by decide
theorem witness_SteppingStopsAtAReservedCode :
    decodeStimulus [0x00#8, 0x01#8] = .ok [.reset, .tick] ∧ 0x06 ≤ (0x06#8 : Byte).toNat ∧
    runOps [.reset, .tick] { State.reset with stimulus := [] } = .next { State.reset with tickCounter := 1#16 } :=
  ⟨by decide, by decide, rfl⟩
theorem witness_AfterResetNothingIsPendingOrArmed : exec .reset bothPending = .next State.reset := rfl
theorem witness_CaptureOverrunLosesTheEarlierEdge : bothPending.edgePending = true := rfl
theorem witness_OverflowOverrunLosesTheEarlierWrap :
    { State.reset with ovfPending := true, tickCounter := 0xFFFF#16 }.ovfPending = true ∧
    { State.reset with ovfPending := true, tickCounter := 0xFFFF#16 }.tickCounter = 0xFFFF#16 := by decide
theorem witness_OverflowOverrunLosesTheEarlierWrap_twoWraps :
    State.reset.edgePending = false ∧ 2 * 0x10000 ≤ State.reset.tickCounter.toNat + 131072 ∧
    State.reset.tickCounter.toNat + 131072 < 3 * 0x10000 := by decide
theorem witness_SvcOvfCountsTheOverflow :
    { State.reset with ovfPending := true, overflowCount := 0xFFFF#16 }.ovfPending = true ∧
    { State.reset with ovfPending := true, overflowCount := 0xFFFF#16 }.edgePending = false := by decide
theorem witness_SvcOvfCountsTheOverflow_noStep :
    (State.reset.ovfPending = false ∨ State.reset.edgePending = true) ∧
    (bothPending.ovfPending = false ∨ bothPending.edgePending = true) := by decide
/-- Both branches of the comparison occur: equal ticks take the else branch, one less the wrap branch. -/
theorem witness_EdgeHandlerReportsTheInterval :
    BufferInv beforeSB ∧ ¬ (100#16 : U16).toNat < beforeSB.prevTick.toNat ∧
    (99#16 : U16).toNat < beforeSB.prevTick.toNat := by decide
theorem witness_SvcEdgeDeliversTheEdge : BufferInv beforeSB ∧ beforeSB.edgePending = true := by decide
theorem witness_SvcEdgeDeliversTheEdge_noStep : State.reset.edgePending = false := rfl
theorem witness_PulsesCountServicedEdges : ∃ t, hEdge 100#16 beforeSB = .next t := hEdge_completes _ _
theorem witness_PulsesCountServicedEdges_run :
    ResetFree [.fall, .svcEdge] ∧ ∃ t, runOps [.fall, .svcEdge] State.reset = .next t :=
  ⟨by decide, exists_next_of_answers (by decide +kernel)⟩
theorem witness_DeltaIsOneShortInTheWrapBranch :
    (500#16 : U16).toNat ≤ (500#16 : U16).toNat ∧ (499#16 : U16).toNat < (500#16 : U16).toNat := by decide
theorem witness_UnderflowOfTheDecrementShows65535 :
    BufferInv bothPending ∧ (50#16 : U16).toNat < bothPending.prevTick.toNat ∧ bothPending.overflowCount = 0x0000#16 := by
  decide
theorem witness_ReportsReconstructElapsedTicks :
    bothPending.overflowCount = 0x0000#16 ∧ 0xFFFF ≤ 0xFFFF ∧
    bothPending.prevTick.toNat ≤ (100#16 : U16).toNat ∧ (99#16 : U16).toNat < bothPending.prevTick.toNat ∧ 1 ≤ 1 := by
  decide
/-- The edge captured at 0xFFFF was serviced one tick later, with the wrap of that tick still pending. -/
def servicedLate : State :=
  { State.reset with prevTick := 0xFFFF#16, ovfPending := true, captureLatch := 0xFFFF#16, pulses := 1#16 }
/-- One tick after the delivery of that wrap. -/
def afterServicedLate : State :=
  { servicedLate with ovfPending := false, overflowCount := 1#16, tickCounter := 1#16 }
/-- The wrap branch, late service on both sides: the next edge is serviced two ticks after its capture. -/
theorem witness_IntervalsBetweenEdgesAreReportedToOneTick :
    BufferInv servicedLate ∧ servicedLate.edgePending = false ∧ servicedLate.overflowCount = 0x0000#16 ∧
    servicedLate.prevTick.toNat + 1 =
      servicedLate.tickCounter.toNat + (if servicedLate.ovfPending = true then 0x10000 else 0) ∧
    (∀ i ∈ [Instr.svcOvf, Instr.txrdy, Instr.tick] ++ [Instr.tick, Instr.tick], i = .tick ∨ i = .svcOvf ∨ i = .txrdy) ∧
    noOverrun [.svcOvf, .txrdy, .tick] servicedLate = true ∧
    runOps [.svcOvf, .txrdy, .tick] servicedLate = .next afterServicedLate ∧ afterServicedLate.ovfPending = false ∧
    exec .fall afterServicedLate = .next afterServicedLate.captureEdge ∧
    (∃ v, runOps [.tick, .tick] afterServicedLate.captureEdge = .next v) ∧
    servicedLate.prevTick.toNat + (1 + countOp .tick [.svcOvf, .txrdy, .tick]) < 0x100000000 ∧
    ¬ servicedLate.prevTick.toNat ≤ afterServicedLate.tickCounter.toNat :=
  ⟨by decide, by decide, by decide, by decide, by decide, by decide, runOps_eq_next_of_answer (by decide), by decide, rfl,
    exists_next_of_answers (by decide), by decide, by decide⟩
/-- The branch without a wrap, serviced at once on both sides. -/
theorem witness_IntervalsBetweenEdgesAreReportedToOneTick_atOnce :
    BufferInv State.reset ∧ State.reset.edgePending = false ∧ State.reset.overflowCount = 0x0000#16 ∧
    State.reset.prevTick.toNat + 0 =
      State.reset.tickCounter.toNat + (if State.reset.ovfPending = true then 0x10000 else 0) ∧
    noOverrun [.tick] State.reset = true ∧ runOps [.tick] State.reset = .next { State.reset with tickCounter := 1#16 } ∧
    (∃ v, runOps [] { State.reset with tickCounter := 1#16 }.captureEdge = .next v) ∧
    State.reset.prevTick.toNat + (0 + countOp .tick [.tick]) < 0x100000000 ∧
    State.reset.prevTick.toNat ≤ { State.reset with tickCounter := 1#16 }.tickCounter.toNat :=
  ⟨by decide, by decide, by decide, by decide, by decide, rfl, ⟨_, rfl⟩, by decide, by decide⟩
/-- The state at the second capture of `witness_ReportsMeasureFromCaptureToCapture`. -/
def secondCapture : State :=
  { State.reset with
    tickCounter := 1#16, captureLatch := 0xFFFF#16, pulses := 1#16, overflowCount := 1#16, prevTick := 0xFFFF#16,
    buf := (List.range 13).zip (fmt 1#16 0#16 0xFFFF#16), armed := true }
/-- The counter one tick before a wrap. -/
def atTop : State := { State.reset with tickCounter := 0xFFFF#16 }
/-- Between the first capture and its service, between that and the second capture, and after the second capture. -/
def runA : List Instr := [Instr.tick]
def runB : List Instr := [Instr.svcOvf, Instr.tick]
def runC : List Instr := [Instr.tick]
/-- The wrap falls between the first capture and its late service; the second service is late too. -/
theorem witness_ReportsMeasureFromCaptureToCapture :
    BufferInv atTop ∧ atTop.ovfPending = false ∧ (∀ i ∈ runA ++ runB ++ runC, i = .tick ∨ i = .svcOvf ∨ i = .txrdy) ∧
    exec .fall atTop = .next atTop.captureEdge ∧
    runOps (runA ++ Instr.svcEdge :: runB) atTop.captureEdge = .next secondCapture ∧
    noOverrun (runA ++ Instr.svcEdge :: runB) atTop.captureEdge = true ∧ secondCapture.ovfPending = false ∧
    exec .fall secondCapture = .next secondCapture.captureEdge ∧
    (∃ v, runOps runC secondCapture.captureEdge = .next v) ∧
    atTop.tickCounter.toNat + countOp .tick (runA ++ runB) < 0x100000000 :=
  ⟨by decide, by decide, by decide, rfl, runOps_eq_next_of_answer (by decide +kernel), by decide +kernel, by decide, rfl,
    exists_next_of_answers (by decide +kernel), by decide⟩
theorem witness_FirstReportCountsTicksSinceReset :
    (∀ i ∈ [Instr.tick, Instr.txrdy] ++ [Instr.tick], i = .tick ∨ i = .svcOvf ∨ i = .txrdy) ∧
    noOverrun [.tick, .txrdy] State.reset = true ∧
    runOps [.tick, .txrdy] State.reset = .next { State.reset with tickCounter := 1#16 } ∧
    exec .fall { State.reset with tickCounter := 1#16 } =
      .next { State.reset with tickCounter := 1#16, captureLatch := 1#16, edgePending := true } ∧
    (∃ v, runOps [.tick] { State.reset with tickCounter := 1#16, captureLatch := 1#16, edgePending := true } = .next v) ∧
    countOp .tick [.tick, .txrdy] < 0x100000000 :=
  ⟨by decide, by decide, rfl, rfl, ⟨_, rfl⟩, by decide⟩
theorem witness_EdgeIsServicedBeforeOverflow : bothPending.edgePending = true ∧ bothPending.ovfPending = true := by decide
theorem witness_PendingOverflowIsCountedOneIntervalLate :
    BufferInv bothPending ∧ bothPending.edgePending = true ∧ bothPending.ovfPending = true := by decide
theorem witness_EdgeJustBeforeAWrapBelongsToTheOldCycle :
    BufferInv { State.reset with tickCounter := 0xFFFF#16 } ∧
    { State.reset with tickCounter := 0xFFFF#16 }.tickCounter = 0xFFFF#16 := by decide
theorem witness_ScenarioALoadsItsLine :
    BufferInv { State.reset with prevTick := 100#16 } ∧ { State.reset with prevTick := 100#16 }.pulses = 0#16 ∧
    { State.reset with prevTick := 100#16 }.overflowCount = 0#16 := by decide
theorem witness_DecIsTheShortestNumeral :
    (7#16 : U16) ≠ 0#16 ∧ [0x30#8, 0x37#8] ≠ ([] : List Byte) ∧
    (∀ b ∈ [0x30#8, 0x37#8], 0x30 ≤ b.toNat ∧ b.toNat ≤ 0x39) ∧
    [0x30#8, 0x37#8].foldl (fun n b => n * 10 + (b.toNat - 0x30)) 0 = (7#16 : U16).toNat := by decide
theorem witness_ReportLinesAreUnambiguous : fmt 1#16 2#16 3#16 = fmt 1#16 2#16 3#16 := rfl
/-- The bounds where the clauses meet: index 21 is the last one inside, 22 the first one outside. -/
theorem witness_BufferAccessIsBoundedAndExact :
    bufRead [] 21 = some 0x00#8 ∧ bufRead [] 22 = none ∧ Memory.wf [] = true ∧
    (withLine lineSD 22#5 true).armed = true ∧ 21 < (withLine lineSD 22#5 true).cursor.toNat := by decide
theorem witness_BufferContentsDetermineTheData :
    Memory.wf [(21, 0x54#8)] = true ∧ ∀ i, i ≤ 21 → Memory.read [(21, 0x54#8)] i = Memory.read [(21, 0x54#8)] i :=
  ⟨by decide, fun _ _ => rfl⟩
theorem witness_LoadStoresTheMessageAndArms :
    messageWellFormed lineSD = true ∧ BufferInv (withLine lineSB 3#5 true) := by decide
theorem witness_TxrdySendsOneByteOrDisarms_disarmed : State.reset.armed = false := rfl
theorem witness_TxrdySendsOneByteOrDisarms_sends :
    (withLine lineSD 10#5 true).armed = true ∧ (withLine lineSD 10#5 true).cursor.toNat ≤ 21 ∧
    bufByte (withLine lineSD 10#5 true) (withLine lineSD 10#5 true).cursor.toNat ≠ Config.term := by decide
theorem witness_TxrdySendsOneByteOrDisarms_inv :
    TerminatorInv (withLine lineSD 10#5 true) ∧
    bufByte (withLine lineSD 10#5 true) (withLine lineSD 10#5 true).cursor.toNat ≠ Config.term := by decide
theorem witness_TxrdySendsOneByteOrDisarms_afterLoad :
    messageWellFormed lineSD = true ∧ BufferInv State.reset ∧ load lineSD State.reset = .next (withLine lineSD 0#5 true) :=
  ⟨by decide, by decide, rfl⟩
theorem witness_CoincidingTickAndFallRunInEitherOrder :
    { State.reset with tickCounter := 0xFFFF#16 }.tickCounter = 0xFFFF#16 := rfl
theorem witness_TxrdySendsOneByteOrDisarms_disarms :
    (withLine lineSD 21#5 true).armed = true ∧ (withLine lineSD 21#5 true).cursor.toNat ≤ 21 ∧
    bufByte (withLine lineSD 21#5 true) (withLine lineSD 21#5 true).cursor.toNat = Config.term := by decide
theorem witness_CompleteDrainSendsTheWholeMessage :
    messageWellFormed lineSD = true ∧ BufferInv State.reset ∧ load lineSD State.reset = .next (withLine lineSD 0#5 true) ∧
    (∀ i ∈ [Instr.txrdy, .fall], i = .tick ∨ i = .fall ∨ i = .svcOvf ∨ i = .txrdy) ∧
    ∃ t, runOps [.txrdy, .fall] (withLine lineSD 0#5 true) = .next t :=
  ⟨by decide, by decide, rfl, by decide, _, rfl⟩
theorem witness_OverwriteCutsTheOldLine :
    messageWellFormed lineSD = true ∧ messageWellFormed lineSB = true ∧ BufferInv State.reset ∧
    load lineSD State.reset = .next (withLine lineSD 0#5 true) ∧
    countOp .txrdy [.txrdy] ≤ lineSD.length ∧
    runOps [.txrdy] (withLine lineSD 0#5 true) = .next { withLine lineSD 1#5 true with wire := [0x54#8] } ∧
    load lineSB { withLine lineSD 1#5 true with wire := [0x54#8] } =
      .next { withLine lineSB 0#5 true with wire := [0x54#8] } ∧
    ∃ t, runOps [.txrdy] { withLine lineSB 0#5 true with wire := [0x54#8] } = .next t :=
  ⟨by decide, by decide, by decide, rfl, by decide, rfl, rfl, _, rfl⟩
theorem witness_OnlyTheTerminatorOrResetDisarms :
    exec .txrdy (withLine lineSD 11#5 true) = .next (withLine lineSD 0#5 false) ∧
    (withLine lineSD 11#5 true).armed = true ∧ (withLine lineSD 0#5 false).armed = false := ⟨rfl, rfl, rfl⟩
theorem witness_DrainEndsWithinTwentyTwoEvents : Inv (withLine lineSD 3#5 true) := by decide
theorem witness_TransmitReadyMayFallBeforeOrAfterAService :
    Inv { withLine lineSD 3#5 true with edgePending := true } ∧
    { withLine lineSD 3#5 true with edgePending := true }.edgePending = true := by decide
theorem witness_WireIsOnlyAppendedToAndNeverRead :
    exec .txrdy (withLine lineSD 0#5 true) = .next { withLine lineSD 1#5 true with wire := [0x54#8] } := rfl
theorem witness_reachable_reset : Reachable State.reset := ⟨[], rfl⟩
theorem witness_reachable_after_an_edge :
    Reachable { withLine (fmt 1#16 0#16 0#16) 1#5 true with pulses := 1#16, wire := [0x54#8] } :=
  ⟨[.fall, .svcEdge, .txrdy], runOps_eq_next_of_answer (by decide +kernel)⟩
theorem witness_WireIsTheSentPartsOfTheMessages :
    ResetFree [.fall, .svcEdge, .txrdy] ∧ ∃ t, runOps [.fall, .svcEdge, .txrdy] State.reset = .next t :=
  ⟨by decide, exists_next_of_answers (by decide +kernel)⟩
theorem witness_WholeLinesExactlyWhenEveryMessageDrains :
    ResetFree [.fall, .svcEdge, .txrdy] ∧ (∃ t, runOps [.fall, .svcEdge, .txrdy] State.reset = .next t) ∧
    lineLog [.fall, .svcEdge, .txrdy] State.reset = [] ++ [(fmt 1#16 0#16 0#16, 1)] :=
  ⟨by decide, exists_next_of_answers (by decide +kernel), by decide +kernel⟩
/-- Two edges serviced at once, with `k` transmit-ready events between them. -/
def twoEdges (k : Nat) : List Instr :=
  Instr.fall :: Instr.svcEdge :: (List.replicate k Instr.txrdy ++ [Instr.fall, Instr.svcEdge])
/-- With an earlier message, at the boundary: of its 9 bytes exactly 9 are sent before the next edge, or 8. -/
theorem witness_WholeLinesExactlyWhenEveryMessageDrains_boundary :
    (ResetFree (twoEdges 9) ∧ (∃ t, runOps (twoEdges 9) State.reset = .next t) ∧
      lineLog (twoEdges 9) State.reset = [(fmt 1#16 0#16 0#16, 9)] ++ [(fmt 2#16 0#16 0#16, 0)]) ∧
    (ResetFree (twoEdges 8) ∧ (∃ t, runOps (twoEdges 8) State.reset = .next t) ∧
      lineLog (twoEdges 8) State.reset = [(fmt 1#16 0#16 0#16, 8)] ++ [(fmt 2#16 0#16 0#16, 0)]) ∧
    (fmt 1#16 0#16 0#16).length = 9 :=
  ⟨⟨by decide, exists_next_of_answers (by decide +kernel), by decide +kernel⟩,
    ⟨by decide, exists_next_of_answers (by decide +kernel), by decide +kernel⟩, by decide⟩
theorem witness_StaleBytesNeverReachTheWire :
    Inv (withLine [] 0#5 false) ∧ Inv { withLine [] 0#5 false with buf := [(5, 0x54#8)] } ∧
    SameUpToTerminator (withLine [] 0#5 false) { withLine [] 0#5 false with buf := [(5, 0x54#8)] } ∧
    ∃ t, runOps [.txrdy] (withLine [] 0#5 false) = .next t :=
  ⟨by decide, by decide, ⟨rfl, 0, by decide⟩, _, rfl⟩
theorem witness_EachPieceOfStateHasItsWriters : ∃ t, exec .fall State.reset = .next t := ⟨_, rfl⟩
theorem witness_OperationsHaveAStepExactlyWhenEnabled : Inv State.reset := by decide
theorem witness_EveryStepKeepsInv :
    Inv { State.reset with stimulus := [0x02#8] } ∧ ∃ t, step { State.reset with stimulus := [0x02#8] } = .next t :=
  ⟨by decide, _, rfl⟩
theorem witness_CursorNeverPassesTheTerminator : Reachable State.reset ∧ State.reset.armed = false := ⟨⟨[], rfl⟩, rfl⟩

/-- An execution that serves its pending edge at once and idles from then on. -/
def servedOps (n : Nat) : Option Instr := if n = 0 then some .svcEdge else none

/-- Its states. -/
def servedStates (n : Nat) : State :=
  if n = 0 then beforeSB else
    match exec .svcEdge beforeSB with
    | .next t => t
    | .fault _ => beforeSB
    | .refused _ => beforeSB

theorem servedStates_succ (n : Nat) : servedStates (n + 1) = servedStates 1 := by simp [servedStates]

theorem witness_FairExecutionsDeliverEveryPendingEdge :
    IsExecution servedOps servedStates ∧ WeaklyFair .svcEdge servedOps servedStates ∧
    (servedStates 0).edgePending = true := by
  refine ⟨fun n => ?_, fun n h => ?_, rfl⟩
  · cases n with
    | zero => exact (rfl : exec .svcEdge beforeSB = .next (servedStates 1))
    | succ n =>
      have h0 : servedOps (n + 1) = none := by simp [servedOps]
      rw [h0]
      exact (servedStates_succ (n + 1)).trans (servedStates_succ n).symm
  · have h1 := h (n + 1) (Nat.le_succ n)
    rw [servedStates_succ] at h1
    exact absurd h1 (by decide)

/-- An armed block that sends its one byte, meets its terminator and idles from then on. -/
def drainedOps (n : Nat) : Option Instr := if n < 2 then some .txrdy else none

/-- Its states. -/
def drainedStates (n : Nat) : State :=
  if n = 0 then withLine [0x54#8] 0#5 true
  else if n = 1 then { withLine [0x54#8] 1#5 true with wire := [0x54#8] }
  else { withLine [0x54#8] 0#5 false with wire := [0x54#8] }

theorem drainedStates_late (n : Nat) : drainedStates (n + 2) = drainedStates 2 := by simp [drainedStates]

theorem witness_OfferedExecutionsDrainTheLastMessage :
    IsExecution drainedOps drainedStates ∧ SerializerKeepsOffering drainedOps drainedStates ∧ Inv (drainedStates 0) ∧
    unsentBytes (drainedStates 0) = [0x54#8] ∧ ∀ m, 0 ≤ m → drainedOps m ≠ some .svcEdge := by
  refine ⟨fun n => ?_, fun n h => ?_, by decide, by decide, fun m _ => ?_⟩
  · match n with
    | 0 => exact (rfl : exec .txrdy (drainedStates 0) = .next (drainedStates 1))
    | 1 => exact (rfl : exec .txrdy (drainedStates 1) = .next (drainedStates 2))
    | n + 2 =>
      have h0 : drainedOps (n + 2) = none := by simp [drainedOps]
      rw [h0]
      exact (drainedStates_late (n + 1)).trans (drainedStates_late n).symm
  · have h1 := h (n + 2) (by omega)
    rw [drainedStates_late] at h1
    exact absurd h1 (by decide)
  · by_cases hm : m < 2 <;> simp [drainedOps, hm]

end Sys2Proof.Tests
end

