-- ==== Sys2Proof/Proofs/State.lean ====
section
/-! PROOFS. The family 10_state.md: the reset values (R35) and the wire (R30). -/

namespace Sys2Proof.Proofs

open Sys2Proof.Machine Sys2Proof.Safety

/-! ## The reset values -/

/-- `RESET` is the reset state but for the two sequences it keeps: the wire (R30) and the stimulus. -/
theorem resetBlock_eq_reset_with (s : State) :
    resetBlock s = { State.reset with wire := s.wire, stimulus := s.stimulus } := rfl

theorem exec_reset (s : State) : exec .reset s = .next (resetBlock s) := rfl

@[simp] theorem bufByte_reset (i : Nat) : bufByte State.reset i = Config.term := rfl

/-- Settles O9: the table is the definition of the reset state, and `RESET` gives that state but for what it keeps. -/
theorem resetStateHoldsTheTableOfResetValues : Obligations.ResetStateHoldsTheTableOfResetValues := by
  unfold Obligations.ResetStateHoldsTheTableOfResetValues
  refine ⟨rfl, rfl, rfl, rfl, rfl, rfl, rfl, fun i _ => bufByte_reset i, rfl, rfl, rfl, fun s => ?_⟩
  refine ⟨resetBlock s, exec_reset s, ?_⟩
  simp [resetBlock_eq_reset_with]

/-! ## The wire

"Never read" is said as one law: an operation commutes with replacing the wire. The wire after it follows from the same
law, with the wire the state has already as the replacement. -/

/-- The state with another wire. -/
def setWire (w : List Byte) (s : State) : State := { s with wire := w }

@[simp] theorem setWire_wire (w : List Byte) (s : State) : (setWire w s).wire = w := rfl

@[simp] theorem setWire_self (s : State) : setWire s.wire s = s := rfl

/-- The outcome with another wire; a stop stays a stop. -/
def rewire (w : List Byte) (o : Host.Outcome State Fault Refusal) : Host.Outcome State Fault Refusal :=
  andThen o (fun t => .next (setWire w t))

@[simp] theorem rewire_next (w : List Byte) (t : State) : rewire w (.next t) = .next (setWire w t) := rfl

/-- `f` does the same from a state with another wire, and leaves that wire. -/
def IgnoresWire (f : State → Host.Outcome State Fault Refusal) : Prop :=
  ∀ (w : List Byte) (s : State), f (setWire w s) = rewire w (f s)

/-- A choice whose condition does not read the wire, between two alternatives that do not. -/
theorem ignoresWire_ite {c : State → Bool} {f g : State → Host.Outcome State Fault Refusal}
    (hc : ∀ w s, c (setWire w s) = c s) (hf : IgnoresWire f) (hg : IgnoresWire g) :
    IgnoresWire (fun s => if c s then f s else g s) := by
  intro w s
  by_cases h : c s = true
  · simpa [hc, h] using hf w s
  · simpa [hc, h] using hg w s

theorem execReset_ignoresWire : IgnoresWire execReset := fun _ _ => rfl

theorem execFall_ignoresWire : IgnoresWire execFall := fun _ _ => rfl

theorem execTick_ignoresWire : IgnoresWire execTick := by
  intro w s
  have guard_same : counterAtTop (setWire w s) = counterAtTop s := rfl
  by_cases top : counterAtTop s = true
  · simp only [execTick, guard_same, top, if_true]
    rfl
  · simp only [execTick, guard_same, top]
    rfl

theorem execSvcOvf_ignoresWire : IgnoresWire execSvcOvf :=
  ignoresWire_ite (c := svcOvfEnabled) (fun _ _ => rfl) (fun _ _ => rfl) (fun _ _ => rfl)

theorem load_ignoresWire (msg : List Byte) : IgnoresWire (load msg) := by
  intro w s
  have buf_same : (setWire w s).buf = s.buf := rfl
  cases written : bufWriteAll s.buf 0 (msg ++ [Config.term]) with
  | some m =>
    simp only [load, buf_same, written]
    rfl
  | none =>
    simp only [load, buf_same, written]
    rfl

/-- Running one after another keeps the law: the form in which `H_EDGE` goes on after its `LOAD`. -/
theorem andThen_rewire {f : State → Host.Outcome State Fault Refusal} (hf : IgnoresWire f) (w : List Byte)
    (o : Host.Outcome State Fault Refusal) : andThen (rewire w o) f = rewire w (andThen o f) := by
  cases o with
  | next s => exact hf w s
  | fault r => rfl
  | refused r => rfl

theorem hEdge_ignoresWire (tick : U16) : IgnoresWire (hEdge tick) := by
  intro w s
  have loaded := load_ignoresWire (fmtReport (edgeReport tick s)) w (s.setTracker (edgeReport tick s) tick)
  have cleared : IgnoresWire (fun t => .next (t.setOverflowCount 0x0000#16)) := fun _ _ => rfl
  calc hEdge tick (setWire w s)
      = andThen (rewire w (load (fmtReport (edgeReport tick s)) (s.setTracker (edgeReport tick s) tick)))
          (fun t => .next (t.setOverflowCount 0x0000#16)) := by rw [← loaded]; rfl
    _ = rewire w (hEdge tick s) := andThen_rewire cleared w _

theorem execSvcEdge_ignoresWire : IgnoresWire execSvcEdge :=
  ignoresWire_ite (c := svcEdgeEnabled) (fun _ _ => rfl)
    (fun w s => hEdge_ignoresWire (edgeTick s) w s.acceptEdge) (fun _ _ => rfl)

theorem exec_ignoresWire {i : Instr} (hi : i ≠ .txrdy) : IgnoresWire (exec i) := by
  cases i with
  | reset => exact execReset_ignoresWire
  | tick => exact execTick_ignoresWire
  | fall => exact execFall_ignoresWire
  | svcEdge => exact execSvcEdge_ignoresWire
  | svcOvf => exact execSvcOvf_ignoresWire
  | txrdy => exact absurd rfl hi

/-- Only `TXRDY` hands a byte to the serializer (R34, R163). -/
theorem txData_eq_none {i : Instr} (hi : i ≠ .txrdy) (s : State) : txData i s = none := by
  cases i with
  | reset | tick | fall | svcEdge | svcOvf => rfl
  | txrdy => exact absurd rfl hi

/-- `TXRDY` appends to whatever wire it finds the byte it hands to the serializer, if any. -/
theorem execTxrdy_setWire (w : List Byte) (s : State) :
    execTxrdy (setWire w s) = rewire (w ++ (txData .txrdy s).toList) (execTxrdy s) := by
  have armed_same : (setWire w s).armed = s.armed := rfl
  have byte_same : byteAtCursor (setWire w s) = byteAtCursor s := rfl
  by_cases armed : s.armed = true
  · cases byte : byteAtCursor s with
    | none =>
      simp only [execTxrdy, hTx, armed_same, byte_same, armed, byte, if_true]
      rfl
    | some b =>
      by_cases terminator : isTerminator b = true
      · simp only [execTxrdy, hTx, txData, armed_same, byte_same, armed, byte, terminator, if_true,
          Option.toList_none, List.append_nil]
        rfl
      · simp only [execTxrdy, hTx, txData, armed_same, byte_same, armed, byte, terminator, if_true]
        rfl
  · simp only [execTxrdy, txData, armed_same, armed, Bool.false_eq_true, if_false, Option.toList_none,
      List.append_nil]
    rfl

/-- Every operation does the same from a state with another wire, and appends to it the byte it sends, if any. -/
theorem exec_setWire (i : Instr) (w : List Byte) (s : State) :
    exec i (setWire w s) = rewire (w ++ (txData i s).toList) (exec i s) := by
  by_cases hi : i = .txrdy
  · subst hi
    exact execTxrdy_setWire w s
  · rw [txData_eq_none hi s, Option.toList_none, List.append_nil]
    exact exec_ignoresWire hi w s

theorem exec_setWire_of_next {i : Instr} {s t : State} (h : exec i s = .next t) (w : List Byte) :
    exec i (setWire w s) = .next (setWire (w ++ (txData i s).toList) t) := by
  rw [exec_setWire, h, rewire_next]

/-- The wire after an operation (R30): the one before it and the byte sent, if any. -/
theorem exec_wire {i : Instr} {s t : State} (h : exec i s = .next t) :
    t.wire = s.wire ++ (txData i s).toList := by
  have again := exec_setWire_of_next h s.wire
  rw [setWire_self, h, Host.Outcome.next.injEq] at again
  calc t.wire = (setWire (s.wire ++ (txData i s).toList) t).wire := congrArg State.wire again
    _ = s.wire ++ (txData i s).toList := setWire_wire _ t

/-- Settles O46, by the law that every operation commutes with replacing the wire. -/
theorem wireIsOnlyAppendedToAndNeverRead : Obligations.WireIsOnlyAppendedToAndNeverRead := by
  unfold Obligations.WireIsOnlyAppendedToAndNeverRead
  exact ⟨rfl, fun _ s _ w h => ⟨exec_wire h, fun hi => txData_eq_none hi s, exec_setWire_of_next h w⟩⟩

end Sys2Proof.Proofs
end

/-! PROOFS. The family 30_encoding.md: `DEC` is the shortest decimal numeral (R72).

Every law of `DEC` is an induction over the digits of the value; that induction is packaged once, without the fuel, as
`dec_induction`. -/

namespace Sys2Proof.Proofs

open Sys2Proof.Machine

/-! ## The digits of `DEC` -/

theorem decNat_of_lt (f : Nat) {v : Nat} (hv : v < 10) : decNat f v = [digitByte v] := by
  cases f with
  | zero => simp [decNat, Nat.mod_eq_of_lt hv]
  | succ f => simp [decNat, hv]

theorem decNat_succ_of_le (f : Nat) {v : Nat} (hv : 10 ≤ v) :
    decNat (f + 1) v = decNat f (v / 10) ++ [digitByte (v % 10)] := by
  simp [decNat, Nat.not_lt.mpr hv]

/-- What holds of the one-digit numerals and is kept by one more digit holds of every numeral with enough fuel. -/
theorem decNat_induction {P : Nat → List Byte → Prop} (oneDigit : ∀ v, v < 10 → P v [digitByte v])
    (moreDigits : ∀ v l, 10 ≤ v → P (v / 10) l → P v (l ++ [digitByte (v % 10)]))
    {f v : Nat} (hf : v < 10 ^ (f + 1)) : P v (decNat f v) := by
  induction f generalizing v with
  | zero =>
    have hv : v < 10 := by simpa using hf
    rw [decNat_of_lt 0 hv]
    exact oneDigit v hv
  | succ f ih =>
    rcases Nat.lt_or_ge v 10 with hv | hv
    · rw [decNat_of_lt (f + 1) hv]
      exact oneDigit v hv
    · have fuel_suffices : v / 10 < 10 ^ (f + 1) := Nat.div_lt_of_lt_mul (by rwa [← Nat.pow_succ'])
      rw [decNat_succ_of_le f hv]
      exact moreDigits v _ hv (ih fuel_suffices)

/-- R141 as an induction: what holds of the one-digit numerals and is kept by one more digit holds of `DEC`. -/
theorem dec_induction {P : Nat → List Byte → Prop} (oneDigit : ∀ v, v < 10 → P v [digitByte v])
    (moreDigits : ∀ v l, 10 ≤ v → P (v / 10) l → P v (l ++ [digitByte (v % 10)])) (v : U16) : P v.toNat (dec v) :=
  decNat_induction oneDigit moreDigits (by omega)

theorem dec_byte_bounds {v : U16} {b : Byte} (hb : b ∈ dec v) : 0x30 ≤ b.toNat ∧ b.toNat ≤ 0x39 := by
  obtain ⟨k, hk, rfl⟩ := dec_digit hb
  rw [digitByte_toNat hk]
  omega

theorem dec_length (v : U16) : (dec v).length = Nat.log 10 v.toNat + 1 := by
  refine dec_induction (P := fun v l => l.length = Nat.log 10 v + 1) (fun v hv => ?_) (fun v l hv ih => ?_) v
  · rw [Nat.log_of_lt hv, List.length_singleton]
  · rw [List.length_append, ih, List.length_singleton, Nat.log_of_one_lt_of_le (by decide) hv]

/-- The first digit of a value other than 0 is not the digit 0. -/
theorem dec_head?_of_ne_zero {v : U16} (hv : v.toNat ≠ 0) :
    ∃ k, k ≠ 0 ∧ k < 10 ∧ (dec v).head? = some (digitByte k) := by
  refine dec_induction (P := fun v l => v ≠ 0 → ∃ k, k ≠ 0 ∧ k < 10 ∧ l.head? = some (digitByte k))
    (fun v small nonzero => ⟨v, nonzero, small, rfl⟩) (fun v l large ih _ => ?_) v hv
  obtain ⟨k, nonzero, small, head⟩ := ih (by omega)
  exact ⟨k, nonzero, small, by rw [List.head?_append, head, Option.some_or]⟩

theorem dec_head?_ne_zero_digit {v : U16} (hv : v ≠ 0#16) : (dec v).head? ≠ some 0x30#8 := by
  obtain ⟨k, nonzero, small, head⟩ := dec_head?_of_ne_zero (v := v) (fun h => hv (BitVec.eq_of_toNat_eq h))
  intro zero_digit
  have same : digitByte k = 0x30#8 := Option.some.inj (head.symm.trans zero_digit)
  have value : 0x30 + k = 0x30 := by rw [← digitByte_toNat small, same]; rfl
  omega

/-! ## The value of a sequence of digit bytes -/

/-- The value of a sequence of digit bytes in base ten, most significant first (R72). -/
def numeralValue (l : List Byte) : Nat := l.foldl (fun n b => n * 10 + (b.toNat - 0x30)) 0

@[simp] theorem numeralValue_nil : numeralValue [] = 0 := rfl

@[simp] theorem numeralValue_append_singleton (l : List Byte) (b : Byte) :
    numeralValue (l ++ [b]) = numeralValue l * 10 + (b.toNat - 0x30) := by
  simp [numeralValue]

theorem numeralValue_append_digitByte (l : List Byte) {k : Nat} (hk : k < 10) :
    numeralValue (l ++ [digitByte k]) = numeralValue l * 10 + k := by
  rw [numeralValue_append_singleton, digitByte_toNat hk, Nat.add_sub_cancel_left]

theorem numeralValue_dec (v : U16) : numeralValue (dec v) = v.toNat := by
  refine dec_induction (P := fun v l => numeralValue l = v) (fun v hv => ?_) (fun v l _ ih => ?_) v
  · simpa using numeralValue_append_digitByte [] hv
  · rw [numeralValue_append_digitByte l (Nat.mod_lt v (by decide)), ih]
    omega

/-- A numeral of `n` digits is less than `10 ^ n`; a byte above the digits is all that could break the bound. -/
theorem numeralValue_lt_pow_length {l : List Byte} (hl : ∀ b ∈ l, b.toNat ≤ 0x39) :
    numeralValue l < 10 ^ l.length := by
  induction l using List.reverseRecOn with
  | nil => decide
  | append_singleton l b ih =>
    have front : numeralValue l < 10 ^ l.length := ih (fun c hc => hl c (List.mem_append_left [b] hc))
    have last : b.toNat ≤ 0x39 := hl b (by simp)
    rw [numeralValue_append_singleton, List.length_append, List.length_singleton, Nat.pow_succ]
    omega

/-- No sequence of digit bytes with the value of `v` is shorter than `DEC(v)`: `n` digits reach only the values below
`10 ^ n`, and `DEC(v)` has one digit more than the logarithm of `v`. -/
theorem dec_length_le_of_numeralValue_eq {v : U16} {l : List Byte} (nonempty : l ≠ [])
    (digits : ∀ b ∈ l, b.toNat ≤ 0x39) (value : numeralValue l = v.toNat) : (dec v).length ≤ l.length := by
  have below : v.toNat < 10 ^ l.length := value ▸ numeralValue_lt_pow_length digits
  have log_lt : Nat.log 10 v.toNat < l.length := Nat.log_lt_of_lt_pow' (List.length_pos_of_ne_nil nonempty).ne' below
  rw [dec_length]
  exact log_lt

/-- Settles O33, from the laws of `DEC` above, each an induction over the digits of the value. -/
theorem decIsTheShortestNumeral : Obligations.DecIsTheShortestNumeral := by
  unfold Obligations.DecIsTheShortestNumeral
  intro v
  exact ⟨fun b hb => dec_byte_bounds hb, numeralValue_dec v, dec_head?_ne_zero_digit, rfl, dec_length v,
    fun l nonempty digits value =>
      dec_length_le_of_numeralValue_eq nonempty (fun b hb => (digits b hb).2) value⟩

end Sys2Proof.Proofs

/-! PROOFS. The family 40_capture_timer.md: `TICK` (R100), `FALL` (R101), their order (R104) and the two overruns (R105,
R106).

The ticks of a run are said once, in closed form (`runOps_ticks`); each statement is then a run of named operations
whose end state is written out. -/

namespace Sys2Proof.Proofs

open Sys2Proof.Machine Sys2Proof.Safety

/-! ## Runs of operations -/

theorem runOps_cons_of_next {i : Instr} {is : List Instr} {s t : State} (first : exec i s = .next t) :
    runOps (i :: is) s = runOps is t := by
  simp only [runOps, first]

theorem runOps_singleton_of_next {i : Instr} {s t : State} (only : exec i s = .next t) : runOps [i] s = .next t :=
  runOps_cons_of_next only

theorem runOps_append_of_next {is js : List Instr} {s t : State} (front : runOps is s = .next t) :
    runOps (is ++ js) s = runOps js t := by
  induction is generalizing s with
  | nil =>
    obtain rfl : s = t := by simpa [runOps] using front
    rfl
  | cons i is ih =>
    cases first : exec i s with
    | next u =>
      rw [runOps_cons_of_next first] at front
      rw [List.cons_append, runOps_cons_of_next first, ih front]
    | fault r => simp [runOps, first] at front
    | refused r => simp [runOps, first] at front

/-! ## The ticks of a run -/

/-- The state `n` ticks later: the counter has moved by `n`, and the Overflow is pending if it was or if the counter
wrapped on the way (R100, R106). -/
def ticked (n : Nat) (s : State) : State :=
  { s with
    tickCounter := s.tickCounter + BitVec.ofNat 16 n
    ovfPending := s.ovfPending || decide (0x10000 ≤ s.tickCounter.toNat + n) }

theorem ticked_tickCounter_toNat (n : Nat) (s : State) :
    (ticked n s).tickCounter.toNat = (s.tickCounter.toNat + n) % 0x10000 := by
  simp [ticked]

theorem ticked_ovfPending_iff {n : Nat} {s : State} :
    (ticked n s).ovfPending = true ↔ s.ovfPending = true ∨ 0x10000 ≤ s.tickCounter.toNat + n := by
  simp [ticked]

@[simp] theorem ticked_captureLatch (n : Nat) (s : State) : (ticked n s).captureLatch = s.captureLatch := rfl

@[simp] theorem ticked_edgePending (n : Nat) (s : State) : (ticked n s).edgePending = s.edgePending := rfl

@[simp] theorem ticked_zero (s : State) : ticked 0 s = s := by
  have below : ¬ 0x10000 ≤ s.tickCounter.toNat := by omega
  simp [ticked, below]

/-- Ticks add up: a wrap in either part is a wrap of the whole. -/
theorem ticked_ticked (m n : Nat) (s : State) : ticked n (ticked m s) = ticked (m + n) s := by
  have counter : (ticked n (ticked m s)).tickCounter = (ticked (m + n) s).tickCounter := by
    simp [ticked, BitVec.ofNat_add, BitVec.add_assoc]
  have wrapped : (ticked n (ticked m s)).ovfPending = (ticked (m + n) s).ovfPending := by
    rw [Bool.eq_iff_iff]
    simp only [ticked_ovfPending_iff, ticked_tickCounter_toNat, or_assoc]
    refine or_congr_right ?_
    omega
  calc ticked n (ticked m s)
      = { s with
          tickCounter := (ticked n (ticked m s)).tickCounter
          ovfPending := (ticked n (ticked m s)).ovfPending } := rfl
    _ = ticked (m + n) s := by rw [counter, wrapped]; rfl

/-- `TICK` has a step in every state (R100). -/
theorem exec_tick (s : State) : exec .tick s = .next (ticked 1 s) := by
  change execTick s = _
  by_cases top : s.tickCounter = 0xFFFF#16
  · simp [execTick, counterAtTop, ticked, State.setTickCounter, State.raiseOverflow, top]
  · have below : ¬ 0x10000 ≤ s.tickCounter.toNat + 1 := by bv_omega
    simp [execTick, counterAtTop, ticked, State.setTickCounter, top, below]

theorem runOps_ticks (n : Nat) (s : State) : runOps (List.replicate n .tick) s = .next (ticked n s) := by
  induction n generalizing s with
  | zero => rw [List.replicate_zero, ticked_zero]; rfl
  | succ n ih =>
    rw [List.replicate_succ, runOps_cons_of_next (exec_tick s), ih, ticked_ticked, Nat.add_comm 1 n]

/-! ## `FALL` and the services -/

theorem exec_fall (s : State) : exec .fall s = .next s.captureEdge := rfl

/-- A capture while one is pending writes the latch only (R105). -/
theorem captureEdge_of_edgePending {s : State} (pending : s.edgePending = true) :
    s.captureEdge = { s with captureLatch := s.tickCounter } := by
  simp [State.captureEdge, pending]

/-- The flag is one bit and cannot count (R106). -/
theorem raiseOverflow_of_ovfPending {s : State} (pending : s.ovfPending = true) : s.raiseOverflow = s := by
  rw [State.raiseOverflow, ← pending]

/-- `SVC_EDGE` with an Edge pending, in full but for the buffer it loads; no condition on the old buffer is needed. -/
theorem exec_svcEdge_of_edgePending {s : State} (pending : s.edgePending = true) :
    ∃ m, exec .svcEdge s = .next
      (((s.acceptEdge.setTracker (edgeReport s.captureLatch s.acceptEdge) s.captureLatch).arm m).setOverflowCount
        0#16) := by
  obtain ⟨m, -, loaded⟩ :=
    load_completes (s.acceptEdge.setTracker (edgeReport s.captureLatch s.acceptEdge) s.captureLatch)
      (fmtReport_length_le (edgeReport s.captureLatch s.acceptEdge))
  refine ⟨m, ?_⟩
  calc exec .svcEdge s = hEdge s.captureLatch s.acceptEdge := if_pos pending
    _ = _ := andThen_eq_next.mpr ⟨_, loaded, rfl⟩

theorem exec_svcEdge_ne_next {s : State} (idle : s.edgePending = false) (t : State) : exec .svcEdge s ≠ .next t := by
  intro served
  obtain ⟨pending, -⟩ := execSvcEdge_spec served
  simp [idle] at pending

theorem exec_svcOvf_of_enabled {s : State} (pending : s.ovfPending = true) (noEdge : s.edgePending = false) :
    exec .svcOvf s = .next (hOvf s.acceptOverflow) :=
  if_pos (svcOvfEnabled_eq_true.mpr ⟨pending, noEdge⟩)

theorem exec_svcOvf_ne_next {s : State} (idle : s.ovfPending = false) (t : State) : exec .svcOvf s ≠ .next t := by
  intro served
  obtain ⟨pending, -, -⟩ := execSvcOvf_spec served
  simp [idle] at pending

/-! ## The statements -/

/-- Settles O11: the closed form of one tick; the wrap is at 0xFFFF exactly. -/
theorem tickAdvancesTheCounter : Obligations.TickAdvancesTheCounter := by
  unfold Obligations.TickAdvancesTheCounter
  refine ⟨rfl, fun s => ⟨ticked 1 s, exec_tick s, ticked_tickCounter_toNat 1 s, ?_, rfl, fun _ => rfl⟩⟩
  have wraps_iff : 0x10000 ≤ s.tickCounter.toNat + 1 ↔ s.tickCounter.toNat = 0xFFFF := by omega
  rw [ticked_ovfPending_iff, wraps_iff]

/-- Settles O13: the ticks after a `FALL` are a closed form that keeps the latch. -/
theorem fallLatchesTheCounter : Obligations.FallLatchesTheCounter := by
  unfold Obligations.FallLatchesTheCounter
  refine ⟨rfl, fun s => ⟨s.captureEdge, exec_fall s, rfl, rfl, rfl, fun _ => rfl, fun n => ?_⟩⟩
  exact ⟨ticked n s.captureEdge, runOps_ticks n _, ticked_captureLatch n _⟩

/-- Settles O15: both end states written out; they differ in the counter value the latch took. -/
theorem coincidingTickAndFallRunInEitherOrder : Obligations.CoincidingTickAndFallRunInEitherOrder := by
  unfold Obligations.CoincidingTickAndFallRunInEitherOrder
  intro s
  have fall_first : runOps [.fall, .tick] s = .next (ticked 1 s.captureEdge) := by
    rw [runOps_cons_of_next (exec_fall s), runOps_singleton_of_next (exec_tick _)]
  have tick_first : runOps [.tick, .fall] s = .next (ticked 1 s).captureEdge := by
    rw [runOps_cons_of_next (exec_tick s), runOps_singleton_of_next (exec_fall _)]
  refine ⟨_, _, fall_first, tick_first, rfl, ticked_tickCounter_toNat 1 s, rfl, rfl, fun top => ?_⟩
  have wrapped : (ticked 1 s).ovfPending = true := ticked_ovfPending_iff.mpr (.inr (by simp [top]))
  exact ⟨top, by simp [ticked, top], wrapped, wrapped⟩

/-- Settles O16: the second capture overwrites the latch, and the one service that follows reads it. -/
theorem captureOverrunLosesTheEarlierEdge : Obligations.CaptureOverrunLosesTheEarlierEdge := by
  unfold Obligations.CaptureOverrunLosesTheEarlierEdge
  refine ⟨fun s pending => by rw [exec_fall, captureEdge_of_edgePending pending], fun s n => ?_⟩
  obtain ⟨m, served⟩ := exec_svcEdge_of_edgePending (s := (ticked n s.captureEdge).captureEdge) rfl
  have first_edge_and_ticks : runOps (.fall :: List.replicate n .tick) s = .next (ticked n s.captureEdge) := by
    rw [runOps_cons_of_next (exec_fall s), runOps_ticks]
  have second_edge_and_service := (runOps_cons_of_next (exec_fall _)).trans (runOps_singleton_of_next served)
  exact ⟨_, (runOps_append_of_next first_edge_and_ticks).trans second_edge_and_service, rfl,
    ticked_tickCounter_toNat n s, rfl, exec_svcEdge_ne_next rfl⟩

/-- Settles O17: however often the counter wrapped, the pending flag is all the one service sees, and it clears it. -/
theorem overflowOverrunLosesTheEarlierWrap : Obligations.OverflowOverrunLosesTheEarlierWrap := by
  unfold Obligations.OverflowOverrunLosesTheEarlierWrap
  refine ⟨fun s pending top => ?_, fun s n noEdge two_wraps _ => ?_⟩
  · rcases execTick_spec (exec_tick s) with ⟨-, wrapped⟩ | ⟨not_top, -⟩
    · rw [exec_tick, wrapped, raiseOverflow_of_ovfPending (by simpa using pending)]
      rfl
    · exact absurd top not_top
  · have pending : (ticked n s).ovfPending = true := ticked_ovfPending_iff.mpr (.inr (by omega))
    have served : exec .svcOvf (ticked n s) = .next (hOvf (ticked n s).acceptOverflow) :=
      exec_svcOvf_of_enabled pending noEdge
    exact ⟨_, (runOps_append_of_next (runOps_ticks n s)).trans (runOps_singleton_of_next served), rfl, rfl,
      exec_svcOvf_ne_next rfl⟩

end Sys2Proof.Proofs

/-! PROOFS. The family 41_interval_tracker.md: `H_OVF` and `SVC_OVF` (R120, R121), `H_EDGE` and `SVC_EDGE` (R122, R123),
the pulse count (R124) and the decrement at 0 (R127).

All that `H_EDGE` does is said once (`hEdge_eq_next`): the bytes it loads and the state it leaves, written out. -/

namespace Sys2Proof.Proofs

open Sys2Proof.Machine Sys2Proof.Safety

/-! ## The report -/

theorem wrapBranch_eq_true {tick prev : U16} : wrapBranch tick prev = true ↔ tick.toNat < prev.toNat := by
  simp [wrapBranch, BitVec.lt_def]

theorem wrapBranch_eq_false {tick prev : U16} : wrapBranch tick prev = false ↔ ¬ tick.toNat < prev.toNat := by
  rw [← wrapBranch_eq_true, Bool.not_eq_true]

theorem edgeReport_overflowCount_of_lt {tick : U16} {s : State} (wraps : tick.toNat < s.prevTick.toNat) :
    (edgeReport tick s).overflowCount = s.overflowCount - 1#16 :=
  if_pos (wrapBranch_eq_true.mpr wraps)

theorem edgeReport_overflowCount_of_not_lt {tick : U16} {s : State} (h : ¬ tick.toNat < s.prevTick.toNat) :
    (edgeReport tick s).overflowCount = s.overflowCount := by
  simp [edgeReport, wrapBranch_eq_false.mpr h]

theorem deltaOf_toNat_of_lt {tick prev : U16} (wraps : tick.toNat < prev.toNat) :
    (deltaOf tick prev).toNat = 0xFFFF - (prev.toNat - tick.toNat) := by
  simp only [deltaOf, wrapBranch_eq_true.mpr wraps, if_true, Config.deltaWrapConst]
  bv_omega

theorem deltaOf_toNat_of_not_lt {tick prev : U16} (h : ¬ tick.toNat < prev.toNat) :
    (deltaOf tick prev).toNat = tick.toNat - prev.toNat := by
  simp only [deltaOf, wrapBranch_eq_false.mpr h, Bool.false_eq_true, if_false]
  bv_omega

/-! ## `H_EDGE` -/

/-- The state `H_EDGE(tick)` leaves when its `LOAD` leaves the buffer `m` (R122): the report's overflow count is
overwritten by step 6. -/
def edgeHandled (tick : U16) (m : Memory) (s : State) : State :=
  { s with pulses := s.pulses + 1#16, overflowCount := 0#16, prevTick := tick, buf := m, cursor := 0#5, armed := true }

theorem load_eq_next {msg : List Byte} {s t : State} :
    load msg s = .next t ↔ ∃ m, bufWriteAll s.buf 0 (msg ++ [Config.term]) = some m ∧ t = s.arm m := by
  cases written : bufWriteAll s.buf 0 (msg ++ [Config.term]) with
  | none => simp [load, written]
  | some m => simp [load, written, eq_comm]

/-- R122 in both directions, with no condition on the buffer: what step 5 writes, and the state after step 6. -/
theorem hEdge_eq_next {tick : U16} {s t : State} :
    hEdge tick s = .next t ↔
      ∃ m, bufWriteAll s.buf 0 (fmtReport (edgeReport tick s) ++ [Config.term]) = some m ∧
        t = edgeHandled tick m s := by
  rw [hEdge, andThen_eq_next]
  constructor
  · rintro ⟨u, loaded, cleared⟩
    obtain ⟨m, written, rfl⟩ := load_eq_next.mp loaded
    exact ⟨m, written, (Host.Outcome.next.inj cleared).symm⟩
  · rintro ⟨m, written, rfl⟩
    exact ⟨_, load_eq_next.mpr ⟨m, written, rfl⟩, rfl⟩

/-- Every byte of the buffer after `H_EDGE(tick)` (R122 step 5). -/
theorem bufByte_of_hEdge {tick : U16} {s t : State} (canonical : BufferInv s) (h : hEdge tick s = .next t) (a : Nat) :
    bufByte t a =
      if ha : a < (fmtReport (edgeReport tick s) ++ [Config.term]).length
      then (fmtReport (edgeReport tick s) ++ [Config.term])[a] else bufByte s a := by
  obtain ⟨m, rfl, -, reads⟩ := hEdge_spec canonical h
  exact reads a

theorem holdsMessage_of_hEdge {tick : U16} {s t : State} (canonical : BufferInv s) (h : hEdge tick s = .next t) :
    HoldsMessage t (fmtReport (edgeReport tick s)) := by
  have reads : bufBytes t.buf (fmtReport (edgeReport tick s) ++ [Config.term]).length = _ :=
    bufBytes_eq_of_read (fun a ha => (bufByte_of_hEdge canonical h a).trans (dif_pos ha))
  rwa [List.length_append, List.length_singleton] at reads

theorem bufByte_of_hEdge_beyond {tick : U16} {s t : State} (canonical : BufferInv s) (h : hEdge tick s = .next t)
    {a : Nat} (ha : (fmtReport (edgeReport tick s)).length < a) : bufByte t a = bufByte s a := by
  rw [bufByte_of_hEdge canonical h, dif_neg]
  rw [List.length_append, List.length_singleton]
  omega

/-- `H_EDGE` neither reads nor writes the pending flag of the Edge: it may be cleared before it or after it. -/
theorem hEdge_acceptEdge {tick : U16} {s u : State} (h : hEdge tick s = .next u) :
    hEdge tick s.acceptEdge = .next u.acceptEdge := by
  obtain ⟨m, written, rfl⟩ := hEdge_eq_next.mp h
  exact hEdge_eq_next.mpr ⟨m, written, rfl⟩

theorem pulses_of_hEdge {tick : U16} {s t : State} (h : hEdge tick s = .next t) : t.pulses = s.pulses + 1#16 := by
  obtain ⟨m, -, rfl⟩ := hEdge_eq_next.mp h
  rfl

theorem pulses_toNat_of_hEdge {tick : U16} {s t : State} (h : hEdge tick s = .next t) :
    t.pulses.toNat = (s.pulses.toNat + 1) % 0x10000 := by
  rw [pulses_of_hEdge h]
  exact BitVec.toNat_add s.pulses 1#16

/-! ## The services -/

theorem exec_svcEdge_of_hEdge {s u : State} (pending : s.edgePending = true)
    (handled : hEdge s.captureLatch s = .next u) :
    exec .svcEdge s = .next u.acceptEdge :=
  calc exec .svcEdge s = hEdge s.captureLatch s.acceptEdge := if_pos pending
    _ = .next u.acceptEdge := hEdge_acceptEdge handled

theorem hOvf_overflowCount_toNat (s : State) :
    (hOvf s).overflowCount.toNat = (s.overflowCount.toNat + 1) % 0x10000 :=
  BitVec.toNat_add s.overflowCount 1#16

/-! ## The pulse count -/

theorem runOps_cons_eq_next {i : Instr} {is : List Instr} {s t : State} :
    runOps (i :: is) s = .next t ↔ ∃ u, exec i s = .next u ∧ runOps is u = .next t := by
  cases first : exec i s <;> simp [runOps, first]

theorem countOp_cons (i j : Instr) (ops : List Instr) : countOp i (j :: ops) = countOp i [j] + countOp i ops :=
  List.count_append (l₁ := [j])

/-- No operation but `RESET` and `SVC_EDGE` touches the pulse count (R124). -/
theorem exec_pulses_of_ne {i : Instr} {s t : State} (notReset : i ≠ .reset) (notEdge : i ≠ .svcEdge)
    (h : exec i s = .next t) : t.pulses = s.pulses := by
  cases i with
  | reset => exact absurd rfl notReset
  | svcEdge => exact absurd rfl notEdge
  | tick =>
    rw [exec_tick, Host.Outcome.next.injEq] at h
    exact h ▸ rfl
  | fall =>
    rw [exec_fall, Host.Outcome.next.injEq] at h
    exact h ▸ rfl
  | svcOvf =>
    obtain ⟨-, -, rfl⟩ := execSvcOvf_spec h
    rfl
  | txrdy =>
    rcases execTxrdy_spec h with ⟨-, rfl⟩ | ⟨-, sent⟩
    · rfl
    · obtain ⟨-, ⟨-, rfl⟩ | ⟨-, rfl⟩⟩ := hTx_spec sent <;> rfl

theorem exec_pulses {i : Instr} {s t : State} (notReset : i ≠ .reset) (h : exec i s = .next t) :
    t.pulses = s.pulses + BitVec.ofNat 16 (countOp .svcEdge [i]) := by
  by_cases edge : i = .svcEdge
  · subst edge
    obtain ⟨-, handled⟩ := execSvcEdge_spec h
    simp [pulses_of_hEdge handled, countOp]
  · simp [exec_pulses_of_ne notReset edge h, countOp, edge]

theorem runOps_pulses {ops : List Instr} {s t : State} (noReset : ResetFree ops) (run : runOps ops s = .next t) :
    t.pulses = s.pulses + BitVec.ofNat 16 (countOp .svcEdge ops) := by
  induction ops generalizing s with
  | nil =>
    obtain rfl : s = t := Host.Outcome.next.inj run
    exact (BitVec.add_zero s.pulses).symm
  | cons i is ih =>
    obtain ⟨u, first, rest⟩ := runOps_cons_eq_next.mp run
    have notReset : i ≠ .reset := (List.ne_of_not_mem_cons noReset).symm
    rw [ih (List.not_mem_of_not_mem_cons noReset) rest, exec_pulses notReset first, countOp_cons _ i is,
      BitVec.ofNat_add, BitVec.add_assoc]

theorem runOps_pulses_toNat {ops : List Instr} {s t : State} (noReset : ResetFree ops)
    (run : runOps ops s = .next t) :
    t.pulses.toNat = (s.pulses.toNat + countOp .svcEdge ops) % 0x10000 := by
  simp [runOps_pulses noReset run]

/-! ## The statements -/

/-- Settles O18: both are closed forms of two fields; the guard is the only condition. -/
theorem svcOvfCountsTheOverflow : Obligations.SvcOvfCountsTheOverflow := by
  unfold Obligations.SvcOvfCountsTheOverflow
  refine ⟨rfl, fun s => ⟨hOvf_overflowCount_toNat s, rfl⟩, fun s pending noEdge => ?_, fun s t blocked served => ?_⟩
  · exact ⟨_, exec_svcOvf_of_enabled pending noEdge, rfl, hOvf_overflowCount_toNat _, rfl, fun _ => rfl⟩
  · obtain ⟨pending, noEdge, -⟩ := execSvcOvf_spec served
    simp [pending, noEdge] at blocked

/-- Settles O19: the three fields are those of the report `H_EDGE` loads, computed in each branch of its comparison. -/
theorem edgeHandlerReportsTheInterval : Obligations.EdgeHandlerReportsTheInterval := by
  unfold Obligations.EdgeHandlerReportsTheInterval
  intro tick s canonical
  obtain ⟨t, handled⟩ := hEdge_completes tick s
  have message := holdsMessage_of_hEdge canonical handled
  have beyond := fun a => bufByte_of_hEdge_beyond canonical handled (a := a)
  refine ⟨t, (edgeReport tick s).pulses, (edgeReport tick s).overflowCount, (edgeReport tick s).delta, handled,
    BitVec.toNat_add s.pulses 1#16, ?_, ?_⟩
  · split
    next wraps =>
      rw [edgeReport_overflowCount_of_lt wraps]
      exact ⟨by bv_omega, deltaOf_toNat_of_lt wraps⟩
    next noWrap => exact ⟨edgeReport_overflowCount_of_not_lt noWrap, deltaOf_toNat_of_not_lt noWrap⟩
  · obtain ⟨m, -, rfl⟩ := hEdge_eq_next.mp handled
    exact ⟨rfl, rfl, rfl, rfl, rfl, message, beyond, rfl⟩

/-- Settles O20: the service is `H_EDGE(captureLatch)` with the flag cleared, which `H_EDGE` does not see. -/
theorem svcEdgeDeliversTheEdge : Obligations.SvcEdgeDeliversTheEdge := by
  unfold Obligations.SvcEdgeDeliversTheEdge
  refine ⟨rfl, fun s canonical pending => ?_, fun s t idle => exec_svcEdge_ne_next idle t⟩
  obtain ⟨u, handled⟩ := hEdge_completes s.captureLatch s
  have message : HoldsMessage u (serviceMessage s) := holdsMessage_of_hEdge canonical handled
  have beyond : ∀ a, (serviceMessage s).length < a → bufByte u a = bufByte s a :=
    fun _ => bufByte_of_hEdge_beyond canonical handled
  have counted := pulses_toNat_of_hEdge handled
  refine ⟨u.acceptEdge, u, exec_svcEdge_of_hEdge pending handled, handled, rfl, counted, ?_⟩
  obtain ⟨m, -, rfl⟩ := hEdge_eq_next.mp handled
  exact ⟨rfl, rfl, rfl, rfl, message, beyond, rfl⟩

/-- Settles O22, by induction on the run: each operation adds to the pulse count as often as it is `SVC_EDGE`. -/
theorem pulsesCountServicedEdges : Obligations.PulsesCountServicedEdges := by
  unfold Obligations.PulsesCountServicedEdges
  refine ⟨fun _ _ _ => pulses_toNat_of_hEdge, fun _ _ _ => runOps_pulses_toNat, fun ops t noReset run => ?_⟩
  rw [runOps_pulses_toNat noReset run]
  simp [State.reset]

/-- Settles O24: the wrap branch's decrement of 0 is 65535 in the report, and step 6 overwrites the register. -/
theorem underflowOfTheDecrementShows65535 : Obligations.UnderflowOfTheDecrementShows65535 := by
  unfold Obligations.UnderflowOfTheDecrementShows65535
  intro tick s canonical wraps zero
  obtain ⟨t, handled⟩ := hEdge_completes tick s
  have shown : (edgeReport tick s).overflowCount = 65535#16 := by
    rw [edgeReport_overflowCount_of_lt wraps, zero]
    rfl
  have message : HoldsMessage t (fmt (s.pulses + 1#16) 65535#16 (deltaOf tick s.prevTick)) := by
    rw [← shown]
    exact holdsMessage_of_hEdge canonical handled
  refine ⟨t, s.pulses + 1#16, deltaOf tick s.prevTick, handled, message, rfl, deltaOf_toNat_of_lt wraps, ?_⟩
  obtain ⟨m, -, rfl⟩ := hEdge_eq_next.mp handled
  exact ⟨rfl, rfl, rfl⟩

end Sys2Proof.Proofs

/-! PROOFS. The family 42_message_formatter.md: the recursion of `DEC` (R141) and the report line (R140).

The model runs `DEC` on a fixed fuel; that it follows the rule's own recursion is that the fuel does not matter
(`decNat_fuel`). What the line says of its length and its bytes comes from the three numerals in it. -/

namespace Sys2Proof.Proofs

open Sys2Proof.Machine

/-! ## The recursion of `DEC` -/

theorem dec_of_lt {v : U16} (hv : v < 10#16) : dec v = [digitByte v.toNat] :=
  decNat_of_lt 4 (BitVec.lt_def.mp hv)

/-- The quotient's numeral needs one division less than the model allows it. -/
theorem dec_of_not_lt {v : U16} (hv : ¬ v < 10#16) : dec v = dec (v / 10#16) ++ [digitByte (v % 10#16).toNat] := by
  have large : 10 ≤ v.toNat := Nat.not_lt.mp fun small => hv (BitVec.lt_def.mpr small)
  have quotient : (v / 10#16).toNat = v.toNat / 10 := BitVec.toNat_udiv
  have remainder : (v % 10#16).toNat = v.toNat % 10 := BitVec.toNat_umod
  have fuel : decNat 3 (v.toNat / 10) = decNat 4 (v.toNat / 10) := decNat_fuel (by omega) (by omega)
  calc dec v = decNat 3 (v.toNat / 10) ++ [digitByte (v.toNat % 10)] := decNat_succ_of_le 3 large
    _ = dec (v / 10#16) ++ [digitByte (v % 10#16).toNat] := by rw [fuel, dec, quotient, remainder]

/-- Settles O32: the two branches of the recursion are the laws above; the corner values are run on the model. -/
theorem decFollowsItsRecursion : Obligations.DecFollowsItsRecursion := by
  unfold Obligations.DecFollowsItsRecursion
  refine ⟨fun v => ?_, fun v => ⟨dec_length_pos v, dec_length_le v⟩, ?cornerValues⟩
  case cornerValues => decide
  by_cases hv : v < 10#16
  · rw [if_pos hv]
    exact dec_of_lt hv
  · rw [if_neg hv]
    exact dec_of_not_lt hv

/-! ## The report line -/

/-- R144. -/
theorem fmt_length (p o d : U16) : (fmt p o d).length = 6 + (dec p).length + (dec o).length + (dec d).length := by
  simp only [fmt, List.length_append, List.length_cons, List.length_nil]
  omega

theorem le_fmt_length (p o d : U16) : 9 ≤ (fmt p o d).length := by
  have pulses := dec_length_pos p
  have overflows := dec_length_pos o
  have delta := dec_length_pos d
  rw [fmt_length]
  omega

theorem term_notMem_dec (v : U16) : Config.term ∉ dec v := by
  intro mem
  obtain ⟨k, small, digit⟩ := dec_digit mem
  exact digitByte_ne_term small digit.symm

/-- The terminator is neither in a numeral nor one of the line's four other characters. -/
theorem term_notMem_fmt (p o d : U16) : Config.term ∉ fmt p o d := by
  have head : Config.term ∉ [charT, charSpace] := by decide
  have separator : Config.term ∉ [charSpace] := by decide
  have ending : Config.term ∉ [charCR, charLF] := by decide
  simp only [fmt, List.mem_append, not_or]
  exact ⟨⟨⟨⟨⟨⟨head, term_notMem_dec p⟩, separator⟩, term_notMem_dec o⟩, separator⟩, term_notMem_dec d⟩, ending⟩

/-- Settles O35: the line is the model's definition with its characters written out; its bounds are those of the three
numerals, and the worked examples are run on the model. -/
theorem fmtIsTheReportLine : Obligations.FmtIsTheReportLine := by
  unfold Obligations.FmtIsTheReportLine
  refine ⟨fun _ _ _ => rfl, fun p o d => ⟨le_fmt_length p o d, fmt_length_le p o d, term_notMem_fmt p o d⟩,
    ?workedExamples⟩
  case workedExamples => decide

end Sys2Proof.Proofs

/-! PROOFS. The family 43_transmitter.md: `LOAD` (R160), `H_TX` and `TXRDY` (R161, R162), and what disarms (R166).

The transmit-ready events that meet message bytes are said once, in closed form (`runOps_txrdys`), as the ticks of a run
are. -/

namespace Sys2Proof.Proofs

open Sys2Proof.Machine Sys2Proof.Safety

/-! ## The message in the buffer -/

theorem messageWellFormed_eq_true {msg : List Byte} :
    messageWellFormed msg = true ↔ 9 ≤ msg.length ∧ msg.length ≤ 21 ∧ ∀ b ∈ msg, b ≠ Config.term := by
  simp [messageWellFormed, and_assoc]

/-- A stored message, byte by byte: the terminator stands at the index that is its length (R160). -/
theorem bufByte_of_holdsMessage {s : State} {msg : List Byte} (holds : HoldsMessage s msg) {a : Nat}
    (ha : a < (msg ++ [Config.term]).length) : bufByte s a = (msg ++ [Config.term])[a] := by
  have inside : a < (bufBytes s.buf (msg.length + 1)).length := by rwa [holds]
  calc bufByte s a = (bufBytes s.buf (msg.length + 1))[a] := (bufBytes_getElem _ _ _ inside).symm
    _ = (msg ++ [Config.term])[a] := List.getElem_of_eq holds inside

theorem bufByte_of_holdsMessage_of_lt {s : State} {msg : List Byte} (holds : HoldsMessage s msg) {a : Nat}
    (ha : a < msg.length) : bufByte s a = msg[a] := by
  have inside : a < (msg ++ [Config.term]).length := by
    rw [List.length_append, List.length_singleton]
    omega
  rw [bufByte_of_holdsMessage holds inside, List.getElem_append_left ha]

theorem bufByte_length_of_holdsMessage {s : State} {msg : List Byte} (holds : HoldsMessage s msg) :
    bufByte s msg.length = Config.term := by
  rw [bufByte_of_holdsMessage holds (by simp), List.getElem_concat_length rfl]

/-! ## `LOAD` -/

/-- Every byte of the buffer after `LOAD(msg)` (R160). -/
theorem bufByte_of_load {msg : List Byte} {s t : State} (canonical : BufferInv s) (loaded : load msg s = .next t)
    (a : Nat) :
    bufByte t a =
      if ha : a < (msg ++ [Config.term]).length then (msg ++ [Config.term])[a] else bufByte s a := by
  obtain ⟨m, rfl, -, reads⟩ := load_spec canonical loaded
  exact reads a

theorem holdsMessage_of_load {msg : List Byte} {s t : State} (canonical : BufferInv s)
    (loaded : load msg s = .next t) : HoldsMessage t msg := by
  have reads : bufBytes t.buf (msg ++ [Config.term]).length = _ :=
    bufBytes_eq_of_read (fun a ha => (bufByte_of_load canonical loaded a).trans (dif_pos ha))
  rwa [List.length_append, List.length_singleton] at reads

theorem bufByte_of_load_beyond {msg : List Byte} {s t : State} (canonical : BufferInv s)
    (loaded : load msg s = .next t) {a : Nat} (ha : msg.length < a) : bufByte t a = bufByte s a := by
  rw [bufByte_of_load canonical loaded, dif_neg]
  rw [List.length_append, List.length_singleton]
  omega

/-- The frame of `LOAD` (R160), with no condition on the buffer: whatever the Transmitter was doing, it is armed and
rewound, and nothing outside it changes. -/
theorem load_frame {msg : List Byte} {s t : State} (loaded : load msg s = .next t) :
    t = { s with buf := t.buf, cursor := 0#5, armed := true } := by
  obtain ⟨m, -, rfl⟩ := load_eq_next.mp loaded
  rfl

theorem armed_of_load {msg : List Byte} {s t : State} (loaded : load msg s = .next t) : t.armed = true := by
  rw [load_frame loaded]

theorem cursor_of_load {msg : List Byte} {s t : State} (loaded : load msg s = .next t) : t.cursor = 0#5 := by
  rw [load_frame loaded]

/-! ## `TXRDY` -/

/-- A disarmed Transmitter ignores the event (R162). -/
theorem exec_txrdy_of_disarmed {s : State} (disarmed : s.armed = false) : exec .txrdy s = .next s :=
  if_neg (by simp [disarmed])

theorem exec_txrdy_of_armed {s : State} (armed : s.armed = true) : exec .txrdy s = hTx s := if_pos armed

/-- The then branch of `H_TX` (R161). -/
theorem exec_txrdy_of_ne_term {s : State} (armed : s.armed = true) (inside : s.cursor.toNat ≤ 21)
    (byte : bufByte s s.cursor.toNat ≠ Config.term) :
    exec .txrdy s = .next (s.send (bufByte s s.cursor.toNat)).advanceCursor := by
  obtain ⟨t, handled⟩ := hTx_completes (Nat.lt_succ_of_le inside)
  obtain ⟨-, ⟨terminator, -⟩ | ⟨-, rfl⟩⟩ := hTx_spec handled
  · exact absurd terminator byte
  · rw [exec_txrdy_of_armed armed, handled, bufByte]

/-- The else branch of `H_TX` (R161). -/
theorem exec_txrdy_of_eq_term {s : State} (armed : s.armed = true) (inside : s.cursor.toNat ≤ 21)
    (terminator : bufByte s s.cursor.toNat = Config.term) : exec .txrdy s = .next s.disarm := by
  obtain ⟨t, handled⟩ := hTx_completes (Nat.lt_succ_of_le inside)
  obtain ⟨-, ⟨-, rfl⟩ | ⟨byte, -⟩⟩ := hTx_spec handled
  · rw [exec_txrdy_of_armed armed, handled]
  · exact absurd terminator byte

theorem advanceCursor_cursor_toNat {s : State} (inside : s.cursor.toNat ≤ 21) :
    s.advanceCursor.cursor.toNat = s.cursor.toNat + 1 := by
  rw [State.advanceCursor_cursor]
  bv_omega

/-- R36: where a byte is sent, the terminator is still ahead, so the advanced cursor is at most its index. -/
theorem cursor_succ_le_of_terminatorInv {s : State} (invariant : TerminatorInv s)
    (byte : bufByte s s.cursor.toNat ≠ Config.term) : s.cursor.toNat + 1 ≤ 21 := by
  obtain ⟨L, terminator, -, notBeyond⟩ := invariant
  have notThere : s.cursor.toNat ≠ L.val := fun there => byte (there ▸ terminator)
  omega

/-! ## The transmit-ready events of a run -/

/-- The state after `n` transmit-ready events that meet no terminator: the bytes from the cursor on are on the wire, and
the cursor is behind them (R161). -/
def sent (n : Nat) (s : State) : State :=
  { s with
    wire := s.wire ++ (List.range' s.cursor.toNat n).map (bufByte s)
    cursor := s.cursor + BitVec.ofNat 5 n }

@[simp] theorem sent_armed (n : Nat) (s : State) : (sent n s).armed = s.armed := rfl

@[simp] theorem bufByte_sent (n : Nat) (s : State) (a : Nat) : bufByte (sent n s) a = bufByte s a := rfl

@[simp] theorem sent_zero (s : State) : sent 0 s = s := by simp [sent]

theorem sent_cursor_toNat {n : Nat} {s : State} (inside : s.cursor.toNat + n ≤ 22) :
    (sent n s).cursor.toNat = s.cursor.toNat + n := by
  have below : s.cursor.toNat + n < 32 := by omega
  simpa [sent] using below

/-- One more event sends the byte behind those already sent. -/
theorem send_sent {n : Nat} {s : State} (inside : s.cursor.toNat + n ≤ 22) :
    ((sent n s).send (bufByte s (sent n s).cursor.toNat)).advanceCursor = sent (n + 1) s := by
  rw [sent_cursor_toNat inside]
  simp [sent, State.send, State.advanceCursor, List.range'_concat, BitVec.ofNat_add, BitVec.add_assoc]

theorem runOps_txrdys {n : Nat} {s : State} (armed : s.armed = true) (inside : s.cursor.toNat + n ≤ 22)
    (bytes : ∀ a, s.cursor.toNat ≤ a → a < s.cursor.toNat + n → bufByte s a ≠ Config.term) :
    runOps (List.replicate n .txrdy) s = .next (sent n s) := by
  induction n with
  | zero => rw [List.replicate_zero, sent_zero]; rfl
  | succ n ih =>
    have front := ih (by omega) (fun a low high => bytes a low (by omega))
    have cursor : (sent n s).cursor.toNat = s.cursor.toNat + n := sent_cursor_toNat (by omega)
    have last : exec .txrdy (sent n s) = .next (sent (n + 1) s) := by
      rw [← send_sent (by omega)]
      exact exec_txrdy_of_ne_term armed (by omega) (bytes _ (by omega) (by omega))
    rw [List.replicate_succ', runOps_append_of_next front, runOps_singleton_of_next last]

/-- The first `len(msg)` events of the drain, from any state rewound and armed on the message. -/
theorem runOps_txrdys_of_holdsMessage {s : State} {msg : List Byte} (wellFormed : messageWellFormed msg = true)
    (holds : HoldsMessage s msg) (armed : s.armed = true) (rewound : s.cursor = 0#5) :
    runOps (List.replicate msg.length .txrdy) s = .next (sent msg.length s) := by
  obtain ⟨-, fits, noTerm⟩ := messageWellFormed_eq_true.mp wellFormed
  have start : s.cursor.toNat = 0 := by rw [rewound]; rfl
  refine runOps_txrdys armed (by omega) (fun a _ ha => ?_)
  have within : a < msg.length := by omega
  rw [bufByte_of_holdsMessage_of_lt holds within]
  exact noTerm _ (List.getElem_mem within)

/-- The event after them meets the terminator. -/
theorem exec_txrdy_sent_of_holdsMessage {s : State} {msg : List Byte} (wellFormed : messageWellFormed msg = true)
    (holds : HoldsMessage s msg) (armed : s.armed = true) (rewound : s.cursor = 0#5) :
    exec .txrdy (sent msg.length s) = .next (sent msg.length s).disarm := by
  obtain ⟨-, fits, -⟩ := messageWellFormed_eq_true.mp wellFormed
  have start : s.cursor.toNat = 0 := by rw [rewound]; rfl
  have cursor : (sent msg.length s).cursor.toNat = msg.length := by
    rw [sent_cursor_toNat (by omega), start, Nat.zero_add]
  refine exec_txrdy_of_eq_term armed (by omega) ?_
  rw [cursor, bufByte_sent, bufByte_length_of_holdsMessage holds]

/-! ## What disarms -/

/-- No operation but `RESET` and `TXRDY` writes 0 to `armed` (R166). -/
theorem exec_keeps_armed {i : Instr} {s t : State} (notReset : i ≠ .reset) (notTxrdy : i ≠ .txrdy)
    (h : exec i s = .next t) (armed : s.armed = true) : t.armed = true := by
  cases i with
  | reset => exact absurd rfl notReset
  | txrdy => exact absurd rfl notTxrdy
  | tick =>
    rw [exec_tick, Host.Outcome.next.injEq] at h
    exact h ▸ armed
  | fall =>
    rw [exec_fall, Host.Outcome.next.injEq] at h
    exact h ▸ armed
  | svcEdge =>
    obtain ⟨-, handled⟩ := execSvcEdge_spec h
    obtain ⟨m, -, rfl⟩ := hEdge_eq_next.mp handled
    rfl
  | svcOvf =>
    obtain ⟨-, -, rfl⟩ := execSvcOvf_spec h
    exact armed

/-- A `TXRDY` disarms at the terminator only (R161). -/
theorem eq_term_of_txrdy_disarms {s t : State} (h : exec .txrdy s = .next t) (armed : s.armed = true)
    (disarmed : t.armed = false) : bufByte s s.cursor.toNat = Config.term := by
  rw [exec_txrdy_of_armed armed] at h
  obtain ⟨-, ⟨terminator, -⟩ | ⟨-, rfl⟩⟩ := hTx_spec h
  · exact terminator
  · simp [armed] at disarmed

/-! ## The statements -/

/-- Settles O39: a message of at most 21 bytes fits with its terminator, so `LOAD` answers; the rest is what it stores
and its frame. -/
theorem loadStoresTheMessageAndArms : Obligations.LoadStoresTheMessageAndArms := by
  unfold Obligations.LoadStoresTheMessageAndArms
  intro msg s wellFormed canonical
  obtain ⟨-, fits, -⟩ := messageWellFormed_eq_true.mp wellFormed
  obtain ⟨m, -, loaded⟩ := load_completes s fits
  exact ⟨s.arm m, loaded, holdsMessage_of_load canonical loaded, fun _ => bufByte_of_load_beyond canonical loaded,
    rfl, rfl, rfl⟩

/-- Settles O40: each branch of the event is an equation for its end state; the drain after a `LOAD` is the closed form
of `len(msg)` events and one more. -/
theorem txrdySendsOneByteOrDisarms : Obligations.TxrdySendsOneByteOrDisarms := by
  unfold Obligations.TxrdySendsOneByteOrDisarms
  refine ⟨rfl, fun _ => exec_txrdy_of_disarmed, fun s armed inside byte => ?sends,
    fun s armed inside terminator => ?disarms, fun _ => cursor_succ_le_of_terminatorInv,
    fun msg s s0 wellFormed canonical loaded => ?drains⟩
  case sends =>
    exact ⟨_, exec_txrdy_of_ne_term armed inside byte, rfl, advanceCursor_cursor_toNat inside, rfl, fun _ => rfl⟩
  case disarms => exact ⟨_, exec_txrdy_of_eq_term armed inside terminator, rfl, rfl, rfl, fun _ => rfl⟩
  case drains =>
    have holds := holdsMessage_of_load canonical loaded
    have armed := armed_of_load loaded
    have rewound := cursor_of_load loaded
    exact ⟨_, _, runOps_txrdys_of_holdsMessage wellFormed holds armed rewound, armed,
      exec_txrdy_sent_of_holdsMessage wellFormed holds armed rewound, rfl, rfl, rfl⟩

/-- Settles O43, by the operation: `RESET` may disarm, `TXRDY` only at the terminator, the other four keep `armed`. -/
theorem onlyTheTerminatorOrResetDisarms : Obligations.OnlyTheTerminatorOrResetDisarms := by
  unfold Obligations.OnlyTheTerminatorOrResetDisarms
  refine ⟨fun i s t h armed disarmed => ?_, fun _ _ _ => armed_of_load⟩
  by_cases reset : i = .reset
  · exact .inl reset
  by_cases txrdy : i = .txrdy
  · subst txrdy
    exact .inr ⟨rfl, eq_term_of_txrdy_disarms h armed disarmed⟩
  · have stillArmed := exec_keeps_armed reset txrdy h armed
    simp [disarmed] at stillArmed

end Sys2Proof.Proofs

/-! PROOFS. The family 60_exceptions.md: Edge before Overflow (R184), and that no stuck state is reachable (R196).

`TXRDY` is the one operation of R196 that can be refused; what rules it out is the invariant of R36, which needs a canonical
buffer to survive a `LOAD`. -/

namespace Sys2Proof.Proofs

open Sys2Proof.Machine Sys2Proof.Safety

/-! ## Invariants of reachable states -/

theorem runOps_keeps {P : State → Prop} (kept : ∀ {i s t}, exec i s = .next t → P s → P t) {ops : List Instr}
    {s t : State} (run : runOps ops s = .next t) (start : P s) : P t := by
  induction ops generalizing s with
  | nil =>
    obtain rfl : s = t := Host.Outcome.next.inj run
    exact start
  | cons i is ih =>
    obtain ⟨u, first, rest⟩ := runOps_cons_eq_next.mp run
    exact ih rest (kept first start)

theorem reachable_induction {P : State → Prop} (atReset : P State.reset)
    (kept : ∀ {i s t}, exec i s = .next t → P s → P t) {s : State} (reachable : Reachable s) : P s := by
  obtain ⟨ops, run⟩ := reachable
  exact runOps_keeps kept run atReset

/-! ## The canonical buffer -/

/-- Only `SVC_EDGE` writes the buffer, and `RESET` clears it. -/
theorem exec_keeps_bufferInv {i : Instr} {s t : State} (h : exec i s = .next t) (canonical : BufferInv s) :
    BufferInv t := by
  cases i with
  | reset =>
    obtain rfl : resetBlock s = t := Host.Outcome.next.inj h
    exact reset_buf_wf
  | tick =>
    obtain rfl : ticked 1 s = t := Host.Outcome.next.inj ((exec_tick s).symm.trans h)
    exact canonical
  | fall =>
    obtain rfl : s.captureEdge = t := Host.Outcome.next.inj h
    exact canonical
  | svcEdge =>
    obtain ⟨-, handled⟩ := execSvcEdge_spec h
    obtain ⟨m, rfl, written, -⟩ := hEdge_spec (s := s.acceptEdge) canonical handled
    exact written
  | svcOvf =>
    obtain ⟨-, -, rfl⟩ := execSvcOvf_spec h
    exact canonical
  | txrdy =>
    rcases execTxrdy_spec h with ⟨-, rfl⟩ | ⟨-, handled⟩
    · exact canonical
    · obtain ⟨-, ⟨-, rfl⟩ | ⟨-, rfl⟩⟩ := hTx_spec handled <;> exact canonical

/-! ## The terminator and the cursor -/

theorem cursor_le_of_terminatorInv {s : State} (invariant : TerminatorInv s) : s.cursor.toNat ≤ 21 := by
  obtain ⟨L, -, -, notBeyond⟩ := invariant
  omega

theorem terminatorInv_reset : TerminatorInv State.reset :=
  ⟨0, bufByte_reset _, fun i below => absurd below (Fin.not_lt_zero i), Nat.le_refl 0⟩

/-- A stored message ends at its own length, and a rewound cursor is not beyond that. -/
theorem terminatorInv_of_holdsMessage {s : State} {msg : List Byte} (fits : msg.length ≤ 21)
    (noTerm : Config.term ∉ msg) (holds : HoldsMessage s msg) (rewound : s.cursor = 0#5) : TerminatorInv s := by
  refine ⟨⟨msg.length, by omega⟩, bufByte_length_of_holdsMessage holds, fun i before => ?_, by simp [rewound]⟩
  have within : i.val < msg.length := before
  rw [bufByte_of_holdsMessage_of_lt holds within]
  exact fun terminator => noTerm (terminator ▸ List.getElem_mem within)

theorem terminatorInv_of_hEdge {tick : U16} {s t : State} (canonical : BufferInv s) (h : hEdge tick s = .next t) :
    TerminatorInv t := by
  have rewound : t.cursor = 0#5 := by
    obtain ⟨m, -, rfl⟩ := hEdge_eq_next.mp h
    rfl
  exact terminatorInv_of_holdsMessage (fmtReport_length_le _) (term_notMem_fmt _ _ _)
    (holdsMessage_of_hEdge canonical h) rewound

theorem terminatorInv_disarm {s : State} (invariant : TerminatorInv s) : TerminatorInv s.disarm := by
  obtain ⟨L, terminator, least, -⟩ := invariant
  exact ⟨L, terminator, least, Nat.zero_le L⟩

/-- A byte that is sent is not the terminator, so the cursor moves at most up to it. -/
theorem terminatorInv_send_advanceCursor {s : State} (invariant : TerminatorInv s)
    (byte : bufByte s s.cursor.toNat ≠ Config.term) (b : Byte) : TerminatorInv (s.send b).advanceCursor := by
  have inside : s.cursor.toNat ≤ 21 := cursor_le_of_terminatorInv invariant
  have advanced : (s.send b).advanceCursor.cursor.toNat = s.cursor.toNat + 1 := advanceCursor_cursor_toNat inside
  obtain ⟨L, terminator, least, notBeyond⟩ := invariant
  have notThere : s.cursor.toNat ≠ L.val := fun there => byte (there ▸ terminator)
  exact ⟨L, terminator, least, by omega⟩

/-- R36 is kept by every operation; the buffer is canonical so that what `SVC_EDGE` loads is what the buffer holds. -/
theorem exec_keeps_terminatorInv {i : Instr} {s t : State} (h : exec i s = .next t) (canonical : BufferInv s)
    (invariant : TerminatorInv s) : TerminatorInv t := by
  cases i with
  | reset =>
    obtain rfl : resetBlock s = t := Host.Outcome.next.inj h
    exact terminatorInv_reset
  | tick =>
    obtain rfl : ticked 1 s = t := Host.Outcome.next.inj ((exec_tick s).symm.trans h)
    exact invariant
  | fall =>
    obtain rfl : s.captureEdge = t := Host.Outcome.next.inj h
    exact invariant
  | svcEdge =>
    obtain ⟨-, handled⟩ := execSvcEdge_spec h
    exact terminatorInv_of_hEdge (s := s.acceptEdge) canonical handled
  | svcOvf =>
    obtain ⟨-, -, rfl⟩ := execSvcOvf_spec h
    exact invariant
  | txrdy =>
    rcases execTxrdy_spec h with ⟨-, rfl⟩ | ⟨-, handled⟩
    · exact invariant
    · obtain ⟨-, ⟨-, rfl⟩ | ⟨byte, rfl⟩⟩ := hTx_spec handled
      · exact terminatorInv_disarm invariant
      · exact terminatorInv_send_advanceCursor invariant byte _

theorem bufferInv_and_terminatorInv_of_reachable {s : State} (reachable : Reachable s) :
    BufferInv s ∧ TerminatorInv s :=
  reachable_induction (P := fun s => BufferInv s ∧ TerminatorInv s) ⟨reset_buf_wf, terminatorInv_reset⟩
    (fun h ⟨canonical, invariant⟩ =>
      ⟨exec_keeps_bufferInv h canonical, exec_keeps_terminatorInv h canonical invariant⟩) reachable

/-! ## Which operations have a step -/

/-- `TXRDY` has a step wherever the cursor is inside the buffer. -/
theorem exec_txrdy_completes {s : State} (inside : s.cursor.toNat ≤ 21) : ∃ t, exec .txrdy s = .next t := by
  cases armed : s.armed with
  | false => exact ⟨s, exec_txrdy_of_disarmed armed⟩
  | true =>
    rw [exec_txrdy_of_armed armed]
    exact hTx_completes (Nat.lt_succ_of_le inside)

/-- `SVC_OVF` waits while an Edge is pending (R184). -/
theorem exec_svcOvf_ne_next_of_edgePending {s : State} (pending : s.edgePending = true) (t : State) :
    exec .svcOvf s ≠ .next t := by
  intro served
  obtain ⟨-, noEdge, -⟩ := execSvcOvf_spec served
  simp [pending] at noEdge

/-! ## The statements -/

/-- Settles O28: the service of the Edge clears its flag and keeps the Overflow's, which is the guard of `SVC_OVF`. -/
theorem edgeIsServicedBeforeOverflow : Obligations.EdgeIsServicedBeforeOverflow := by
  unfold Obligations.EdgeIsServicedBeforeOverflow
  intro s edge overflow
  obtain ⟨m, served⟩ := exec_svcEdge_of_edgePending edge
  exact ⟨exec_svcOvf_ne_next_of_edgePending edge, _, _, served, overflow, rfl, exec_svcOvf_of_enabled overflow rfl⟩

/-- Settles O54: three of the operations have a step in every state, `TXRDY` by the invariant of R36; there is no fault
to end in (R180). -/
theorem everyReachableStateHasAStep : Obligations.EveryReachableStateHasAStep := by
  unfold Obligations.EveryReachableStateHasAStep
  intro s reachable
  obtain ⟨-, invariant⟩ := bufferInv_and_terminatorInv_of_reachable reachable
  exact ⟨⟨_, exec_tick s⟩, ⟨_, exec_fall s⟩, exec_txrdy_completes (cursor_le_of_terminatorInv invariant),
    ⟨_, exec_reset s⟩, fun _ fault => nomatch fault⟩

end Sys2Proof.Proofs

/-! PROOFS. The family 70_reset_and_hazards.md: what `RESET` restores and keeps (R210). -/

namespace Sys2Proof.Proofs

open Sys2Proof.Machine Sys2Proof.Safety

/-! ## The state after `RESET` -/

/-- No byte of an earlier message survives a `RESET`. -/
@[simp] theorem bufByte_resetBlock (s : State) (i : Nat) : bufByte (resetBlock s) i = Config.term := rfl

/-- A `RESET` leaves the Transmitter disarmed, so the event is dropped. -/
theorem exec_txrdy_resetBlock (s : State) : exec .txrdy (resetBlock s) = .next (resetBlock s) :=
  exec_txrdy_of_disarmed (State.resetBlock_armed s)

/-! ## The statements -/

/-- Settles O8: each register is the law of `RESET` for its field, `TXRDY` the law of a disarmed Transmitter. -/
theorem resetRestoresEveryPieceOfState : Obligations.ResetRestoresEveryPieceOfState := by
  unfold Obligations.ResetRestoresEveryPieceOfState
  refine ⟨rfl, fun s => ⟨resetBlock s, exec_reset s, ?_⟩⟩
  simp [exec_txrdy_resetBlock, Config.tickReset]

end Sys2Proof.Proofs

/-! PROOFS. The encoding and the step: event codes (R77 to R79), scripts (R81), and stepping through a stimulus.

The stimulus is a field that no operation reads or writes: every operation commutes with replacing it. Stepping through
codes is then applying their operations with the codes behind them standing by. -/

namespace Sys2Proof.Proofs

open Sys2Proof.Machine Sys2Proof.Safety

/-! ## Event codes -/

theorem decodeCode_eq_some {c : Byte} {i : Instr} : decodeCode c = some i ↔ c = eventCode i :=
  ⟨fun h => (eventCode_of_decodeCode h).symm, fun h => h ▸ decodeCode_eventCode i⟩

/-- The six assigned codes are the values below 0x06 (R78, R79). -/
theorem decodeCode_eq_none {c : Byte} : decodeCode c = none ↔ 0x06 ≤ c.toNat := by
  unfold decodeCode
  split_ifs <;> simp <;> bv_omega

theorem assignedCode_iff {c : Byte} : assignedCode c = true ↔ ∃ i, decodeCode c = some i := by
  rw [← Option.isSome_iff_exists, ← Option.ne_none_iff_isSome, Ne, decodeCode_eq_none, assignedCode, decide_eq_true_iff]
  omega

/-! ## Whole stimuli -/

@[simp] theorem decodeStimulus_nil : decodeStimulus [] = .ok [] := rfl

theorem decodeStimulus_cons_of_none {c : Byte} (reserved : decodeCode c = none) (rest : List Byte) :
    decodeStimulus (c :: rest) = .error (.reservedCode c) := by
  simp only [decodeStimulus, reserved]

theorem decodeStimulus_cons_of_some {c : Byte} {i : Instr} (assigned : decodeCode c = some i) {rest : List Byte}
    {e : DecodeError} (refused : decodeStimulus rest = .error e) : decodeStimulus (c :: rest) = .error e := by
  simp only [decodeStimulus, assigned, refused]

/-- A stimulus decodes exactly when its first code is assigned and the codes behind it decode (R77). -/
theorem decodeStimulus_cons_eq_ok {c : Byte} {rest : List Byte} {ops : List Instr} :
    decodeStimulus (c :: rest) = .ok ops ↔
      ∃ i is, decodeCode c = some i ∧ decodeStimulus rest = .ok is ∧ ops = i :: is := by
  cases code : decodeCode c with
  | none => simp [decodeStimulus, code]
  | some i => cases tail : decodeStimulus rest <;> simp [decodeStimulus, code, tail, eq_comm]

theorem decodeStimulus_eq_ok {codes : List Byte} {ops : List Instr} :
    decodeStimulus codes = .ok ops ↔ codes = encodeStimulus ops := by
  induction codes generalizing ops with
  | nil => cases ops <;> simp
  | cons c rest ih =>
    rw [decodeStimulus_cons_eq_ok]
    constructor
    · rintro ⟨i, is, code, tail, rfl⟩
      rw [encodeStimulus_cons, decodeCode_eq_some.mp code, ih.mp tail]
    · intro codes
      cases ops with
      | nil => cases codes
      | cons i is =>
        obtain ⟨head, tail⟩ := List.cons.inj codes
        exact ⟨i, is, decodeCode_eq_some.mpr head, ih.mpr tail, rfl⟩

/-- Settles O2, by induction on the codes; `decodeCode_eq_some` is the one-code case in both directions. -/
theorem stimulusDecodesExactlyToItsOperations : Obligations.StimulusDecodesExactlyToItsOperations := by
  unfold Obligations.StimulusDecodesExactlyToItsOperations
  exact fun _ _ => decodeStimulus_eq_ok

theorem stimulusWellFormed_iff {codes : List Byte} :
    stimulusWellFormed codes = true ↔ ∃ ops, decodeStimulus codes = .ok ops := by
  induction codes with
  | nil => exact ⟨fun _ => ⟨[], rfl⟩, fun _ => rfl⟩
  | cons c rest ih =>
    have split_head : stimulusWellFormed (c :: rest) = true ↔
        assignedCode c = true ∧ stimulusWellFormed rest = true := by
      simp [stimulusWellFormed]
    rw [split_head, ih, assignedCode_iff]
    constructor
    · rintro ⟨⟨i, code⟩, is, tail⟩
      exact ⟨i :: is, decodeStimulus_cons_eq_ok.mpr ⟨i, is, code, tail, rfl⟩⟩
    · rintro ⟨ops, decoded⟩
      obtain ⟨i, is, code, tail, -⟩ := decodeStimulus_cons_eq_ok.mp decoded
      exact ⟨⟨i, code⟩, is, tail⟩

/-- What stands after the first reserved code does not matter (R79). -/
theorem decodeStimulus_append_reserved {before : List Byte} {ops : List Instr} {c : Byte}
    (decoded : decodeStimulus before = .ok ops) (reserved : decodeCode c = none) (after : List Byte) :
    decodeStimulus (before ++ c :: after) = .error (.reservedCode c) := by
  induction before generalizing ops with
  | nil => exact decodeStimulus_cons_of_none reserved after
  | cons b before ih =>
    obtain ⟨i, is, code, tail, -⟩ := decodeStimulus_cons_eq_ok.mp decoded
    exact decodeStimulus_cons_of_some code (ih tail)

/-- Settles O3: the codes one by one, then the first reserved code behind codes that decode. -/
theorem reservedCodesAreRefused : Obligations.ReservedCodesAreRefused := by
  unfold Obligations.ReservedCodesAreRefused
  refine ⟨fun _ => decodeCode_eq_none, fun _ => stimulusWellFormed_iff, fun before after c wellFormed reserved => ?_⟩
  obtain ⟨ops, decoded⟩ := stimulusWellFormed_iff.mp wellFormed
  exact decodeStimulus_append_reserved decoded (decodeCode_eq_none.mpr reserved) after

/-- Settles O1: fixed codes, run on the decoder. -/
theorem tableCodesDecodeToTheirOperations : Obligations.TableCodesDecodeToTheirOperations := by
  unfold Obligations.TableCodesDecodeToTheirOperations
  decide

/-! ## Scripts -/

/-- A piece ends at the first character that cuts. -/
theorem piecesBetween_append_cons {cut : Char → Bool} {w : List Char} {c : Char} (uncut : ∀ x ∈ w, cut x = false)
    (cuts : cut c = true) (rest : List Char) :
    piecesBetween cut (w ++ c :: rest) = w :: piecesBetween cut rest := by
  induction w with
  | nil => simp [piecesBetween, cuts]
  | cons x w ih =>
    have tail := ih (fun y hy => uncut y (List.mem_cons_of_mem x hy))
    simp [piecesBetween, uncut x List.mem_cons_self, tail]

theorem newline_notMem_mnemonic (i : Instr) : ∀ x ∈ mnemonic i, (x == '\n') = false := by
  cases i <;> simp [mnemonic]

theorem piecesBetween_printScript (ops : List Instr) :
    piecesBetween (fun c => c == '\n') (printScript ops) = ops.map mnemonic ++ [[]] := by
  induction ops with
  | nil => rfl
  | cons i is ih =>
    have head : printScript (i :: is) = mnemonic i ++ '\n' :: printScript is := by simp [printScript]
    rw [head, piecesBetween_append_cons (newline_notMem_mnemonic i) rfl, ih]
    rfl

theorem wordsOf_mnemonic (i : Instr) : wordsOf (mnemonic i) = [mnemonic i] := by cases i <;> decide

theorem operationNamed_mnemonic (i : Instr) : operationNamed (mnemonic i) = some i := by cases i <;> rfl

/-- A mnemonic alone on its line is read as its operation (R81). -/
theorem parseLine_mnemonic (i : Instr) : parseLine (mnemonic i) = some (some (.op i)) := by
  have notPulse : mnemonic i ≠ ['P', 'U', 'L', 'S', 'E'] := by cases i <;> decide
  simp only [parseLine, wordsOf_mnemonic, notPulse, if_false, operationNamed_mnemonic, Option.map_some]

/-- The empty piece after the last newline is a blank line. -/
theorem assembleLines_mnemonics (number : Nat) (ops : List Instr) :
    assembleLines number (ops.map mnemonic ++ [[]]) = .ok ops := by
  induction ops generalizing number with
  | nil => rfl
  | cons i is ih =>
    simp only [List.map_cons, List.cons_append, assembleLines, parseLine_mnemonic, ih]
    rfl

/-- Settles O4: printing and cutting at the newlines are inverse, and each line is read as its operation. -/
theorem printedScriptsAssembleToTheirCodes : Obligations.PrintedScriptsAssembleToTheirCodes := by
  unfold Obligations.PrintedScriptsAssembleToTheirCodes
  intro ops
  rw [assemble, assembleOps, piecesBetween_printScript, assembleLines_mnemonics]

/-! ## One step -/

theorem step_of_decode {s : State} {i : Instr} {rest : List Byte} (decoded : decode s.stimulus = .ok (i, rest)) :
    step s = exec i (s.setStimulus rest) := by
  simp only [step, fetch, decoded]

theorem step_setStimulus_cons {c : Byte} {i : Instr} (code : decodeCode c = some i) (s : State) (rest : List Byte) :
    step (s.setStimulus (c :: rest)) = exec i (s.setStimulus rest) :=
  step_of_decode (by simp [decode, code])

theorem step_of_reserved {s : State} {c : Byte} {rest : List Byte} (next : s.stimulus = c :: rest)
    (reserved : decodeCode c = none) : step s = .refused (.reservedCode c) := by
  simp [step, fetch, decode, next, reserved]

theorem step_of_idle {s : State} (idle : s.stimulus = []) : step s = .next s := by
  simp [step, fetch, decode, idle]

/-- Settles O5: the three answers of the decoder are the three cases of the step. -/
theorem stepRunsTheDecodedOperation : Obligations.StepRunsTheDecodedOperation := by
  unfold Obligations.StepRunsTheDecodedOperation
  exact ⟨fun _ _ _ decoded _ => step_of_decode decoded,
    fun _ _ _ next reserved => step_of_reserved next (decodeCode_eq_none.mpr reserved), fun _ => step_of_idle⟩

/-! ## Updates that an operation commutes with -/

/-- `f` does the same from the updated state, and leaves the updated result; a stop stays a stop. -/
def Commutes (update : State → State) (f : State → Host.Outcome State Fault Refusal) : Prop :=
  ∀ s, f (update s) = andThen (f s) (fun t => .next (update t))

/-- A choice whose condition does not read what is updated, between two alternatives that do not. -/
theorem commutes_ite {update : State → State} {guard : State → Bool} {f g : State → Host.Outcome State Fault Refusal}
    (unread : ∀ s, guard (update s) = guard s) (left : Commutes update f) (right : Commutes update g) :
    Commutes update (fun s => if guard s then f s else g s) := by
  intro s
  by_cases holds : guard s = true
  · simpa [unread, holds] using left s
  · simpa [unread, holds] using right s

/-! ## The stimulus is neither read nor written -/

theorem load_setStimulus (msg : List Byte) (codes : List Byte) : Commutes (·.setStimulus codes) (load msg) := by
  intro s
  cases written : bufWriteAll s.buf 0 (msg ++ [Config.term]) <;>
    simp only [load, State.setStimulus_buf, written] <;> rfl

theorem hEdge_setStimulus (tick : U16) (codes : List Byte) : Commutes (·.setStimulus codes) (hEdge tick) := by
  intro s
  have loaded := load_setStimulus (fmtReport (edgeReport tick s)) codes (s.setTracker (edgeReport tick s) tick)
  have unfolded : hEdge tick (s.setStimulus codes) =
      andThen (load (fmtReport (edgeReport tick s)) ((s.setTracker (edgeReport tick s) tick).setStimulus codes))
        (fun t => .next (t.setOverflowCount 0x0000#16)) := rfl
  rw [unfolded, loaded, hEdge]
  cases load (fmtReport (edgeReport tick s)) (s.setTracker (edgeReport tick s) tick) <;> rfl

theorem hTx_setStimulus (codes : List Byte) : Commutes (·.setStimulus codes) hTx := by
  intro s
  have byte_same : byteAtCursor (s.setStimulus codes) = byteAtCursor s := rfl
  cases byte : byteAtCursor s with
  | none => simp only [hTx, byte_same, byte]; rfl
  | some b => by_cases terminator : isTerminator b = true <;> simp only [hTx, byte_same, byte, terminator] <;> rfl

theorem commutes_setStimulus_exec (i : Instr) (codes : List Byte) : Commutes (·.setStimulus codes) (exec i) := by
  cases i with
  | reset => exact fun _ => rfl
  | tick =>
    intro s
    rw [exec_tick, exec_tick]
    rfl
  | fall => exact fun _ => rfl
  | svcEdge =>
    exact commutes_ite (guard := svcEdgeEnabled) (fun _ => rfl)
      (fun s => hEdge_setStimulus (edgeTick s) codes s.acceptEdge) (fun _ => rfl)
  | svcOvf => exact commutes_ite (guard := svcOvfEnabled) (fun _ => rfl) (fun _ => rfl) (fun _ => rfl)
  | txrdy => exact commutes_ite (guard := State.armed) (fun _ => rfl) (hTx_setStimulus codes) (fun _ => rfl)

theorem exec_setStimulus (i : Instr) (codes : List Byte) (s : State) :
    exec i (s.setStimulus codes) = andThen (exec i s) (fun t => .next (t.setStimulus codes)) :=
  commutes_setStimulus_exec i codes s

@[simp] theorem setStimulus_self (s : State) : s.setStimulus s.stimulus = s := rfl

theorem exec_stimulus {i : Instr} {s t : State} (h : exec i s = .next t) : t.stimulus = s.stimulus := by
  have again : exec i s = .next (t.setStimulus s.stimulus) :=
    calc exec i s = andThen (exec i s) (fun u => .next (u.setStimulus s.stimulus)) :=
          exec_setStimulus i s.stimulus s
      _ = .next (t.setStimulus s.stimulus) := by rw [h]; rfl
  have unchanged : t = t.setStimulus s.stimulus := Host.Outcome.next.inj (h.symm.trans again)
  rw [unchanged, State.setStimulus_stimulus]

theorem runOps_setStimulus {ops : List Instr} {s t : State} (run : runOps ops s = .next t) (codes : List Byte) :
    runOps ops (s.setStimulus codes) = .next (t.setStimulus codes) := by
  induction ops generalizing s with
  | nil =>
    obtain rfl : s = t := Host.Outcome.next.inj run
    rfl
  | cons i is ih =>
    obtain ⟨u, first, rest⟩ := runOps_cons_eq_next.mp run
    have first' : exec i (s.setStimulus codes) = .next (u.setStimulus codes) := by rw [exec_setStimulus, first]; rfl
    rw [runOps_cons_of_next first', ih rest]

/-! ## Stepping through a stimulus -/

theorem run_succ (n : Nat) (s : State) :
    Host.Core.run core (n + 1) s = andThen (step s) (Host.Core.run core n) := by
  have stepped : core.step s = step s := rfl
  cases first : step s <;>
    (simp only [Host.Core.run]
     rw [stepped, first]
     rfl)

theorem run_succ_of_next {s t : State} (first : step s = .next t) (n : Nat) :
    Host.Core.run core (n + 1) s = Host.Core.run core n t := by
  rw [run_succ, first]
  rfl

theorem run_succ_of_refused {s : State} {r : Refusal} (first : step s = .refused r) (n : Nat) :
    Host.Core.run core (n + 1) s = .refused r := by
  rw [run_succ, first]
  rfl

theorem run_add_of_next {m : Nat} {s t : State} (front : Host.Core.run core m s = .next t) (n : Nat) :
    Host.Core.run core (m + n) s = Host.Core.run core n t := by
  induction m generalizing s with
  | zero =>
    obtain rfl : s = t := Host.Outcome.next.inj front
    rw [Nat.zero_add]
  | succ m ih =>
    rw [Nat.succ_add]
    cases first : step s with
    | next u =>
      rw [run_succ_of_next first] at front ⊢
      exact ih front
    | fault r => exact nomatch r
    | refused r =>
      rw [run_succ_of_refused first] at front
      cases front

/-- As many steps as there are codes apply the operations of the codes; what stands behind the codes stays. -/
theorem run_append {codes : List Byte} {ops : List Instr} (decoded : decodeStimulus codes = .ok ops) (s : State)
    (behind : List Byte) :
    Host.Core.run core codes.length (s.setStimulus (codes ++ behind)) = runOps ops (s.setStimulus behind) := by
  induction codes generalizing ops s with
  | nil =>
    obtain rfl : [] = ops := Except.ok.inj decoded
    rfl
  | cons c rest ih =>
    obtain ⟨i, is, code, tail, rfl⟩ := decodeStimulus_cons_eq_ok.mp decoded
    have first : step (s.setStimulus (c :: rest ++ behind)) =
        andThen (exec i (s.setStimulus behind)) (fun t => .next (t.setStimulus (rest ++ behind))) :=
      (step_setStimulus_cons code s (rest ++ behind)).trans
        (exec_setStimulus i (rest ++ behind) (s.setStimulus behind))
    cases applied : exec i (s.setStimulus behind) with
    | next t =>
      rw [applied] at first
      have kept : t.setStimulus behind = t := by
        have same : t.stimulus = behind := exec_stimulus applied
        rw [← same, setStimulus_self]
      rw [List.length_cons, run_succ_of_next first, ih tail t, kept, runOps_cons_of_next applied]
    | fault r => exact nomatch r
    | refused r =>
      rw [applied] at first
      rw [List.length_cons, run_succ_of_refused first]
      rw [runOps, applied]
      rfl

/-- Settles O6: nothing stands behind the codes. -/
theorem steppingAStimulusAppliesItsOperations : Obligations.SteppingAStimulusAppliesItsOperations := by
  unfold Obligations.SteppingAStimulusAppliesItsOperations
  intro codes ops s decoded
  have run := run_append decoded s []
  rwa [List.append_nil] at run

/-- Settles O7: the reserved code stands behind codes that decode; the step after them is refused. -/
theorem steppingStopsAtAReservedCode : Obligations.SteppingStopsAtAReservedCode := by
  unfold Obligations.SteppingStopsAtAReservedCode
  intro before after c ops s t decoded reserved run
  have front : Host.Core.run core before.length (s.setStimulus (before ++ c :: after)) =
      .next (t.setStimulus (c :: after)) :=
    (run_append decoded s (c :: after)).trans (runOps_setStimulus run (c :: after))
  have stops : step (t.setStimulus (c :: after)) = .refused (.reservedCode c) :=
    step_of_reserved rfl (decodeCode_eq_none.mpr reserved)
  refine ⟨front, fun k => ?_⟩
  calc Host.Core.run core (before.length + 1 + k) (s.setStimulus (before ++ c :: after))
      = Host.Core.run core (k + 1) (t.setStimulus (c :: after)) := by
        rw [Nat.add_assoc, Nat.add_comm 1 k]
        exact run_add_of_next front (k + 1)
    _ = .refused (.reservedCode c) := run_succ_of_refused stops k

end Sys2Proof.Proofs

/-! PROOFS. The message and the buffer: the bytes of a report line (R73, R144), that the line is unambiguous, and the
canonical form of the buffer (R51). -/

namespace Sys2Proof.Proofs

open Sys2Proof.Machine Sys2Proof.Safety

/-! ## The bytes of a line -/

theorem isMessageByte_of_digit {b : Byte} (low : 0x30 ≤ b.toNat) (high : b.toNat ≤ 0x39) : isMessageByte b = true := by
  simp [isMessageByte, low, high]

theorem isMessageByte_of_mem_dec {v : U16} {b : Byte} (mem : b ∈ dec v) : isMessageByte b = true := by
  obtain ⟨low, high⟩ := dec_byte_bounds mem
  exact isMessageByte_of_digit low high

/-- A line is made of its three numerals and of the four other message bytes (R73). -/
theorem isMessageByte_of_mem_fmt {p o d : U16} {b : Byte} (mem : b ∈ fmt p o d) : isMessageByte b = true := by
  have head : ∀ b ∈ [charT, charSpace], isMessageByte b = true := by decide
  have separator : ∀ b ∈ [charSpace], isMessageByte b = true := by decide
  have ending : ∀ b ∈ [charCR, charLF], isMessageByte b = true := by decide
  simp only [fmt, List.mem_append] at mem
  rcases mem with (((((mem | mem) | mem) | mem) | mem) | mem) | mem
  · exact head b mem
  · exact isMessageByte_of_mem_dec mem
  · exact separator b mem
  · exact isMessageByte_of_mem_dec mem
  · exact separator b mem
  · exact isMessageByte_of_mem_dec mem
  · exact ending b mem

theorem ne_term_of_mem_fmt {p o d : U16} {b : Byte} (mem : b ∈ fmt p o d) : b ≠ Config.term :=
  fun terminator => term_notMem_fmt p o d (terminator ▸ mem)

theorem messageWellFormed_fmt (p o d : U16) : messageWellFormed (fmt p o d) = true :=
  messageWellFormed_eq_true.mpr ⟨le_fmt_length p o d, fmt_length_le p o d, fun _ => ne_term_of_mem_fmt⟩

/-- Settles O34, from the bounds of the three numerals and the bytes they are made of. -/
theorem messagesFitTheBuffer : Obligations.MessagesFitTheBuffer := by
  unfold Obligations.MessagesFitTheBuffer
  intro p o d
  have fits : (fmt p o d ++ [Config.term]).length ≤ Config.bufLen := by
    rw [List.length_append, List.length_singleton]
    exact Nat.succ_le_succ (fmt_length_le p o d)
  exact ⟨fmt_length p o d, le_fmt_length p o d, fits,
    fun _ mem => ⟨isMessageByte_of_mem_fmt mem, ne_term_of_mem_fmt mem⟩, messageWellFormed_fmt p o d⟩

/-! ## The line is unambiguous -/

theorem dec_injective {v w : U16} (same : dec v = dec w) : v = w := by
  apply BitVec.eq_of_toNat_eq
  rw [← numeralValue_dec v, same, numeralValue_dec]

/-- A byte that is no digit is in no numeral. -/
theorem notMem_dec {b : Byte} (notDigit : b.toNat < 0x30 ∨ 0x39 < b.toNat) (v : U16) : b ∉ dec v := by
  intro mem
  obtain ⟨low, high⟩ := dec_byte_bounds mem
  omega

/-- Two sequences cut at the first occurrence of one byte. -/
theorem append_cons_inj_of_notMem_fronts {α : Type} {c : α} {xs ys xs' ys' : List α} (left : c ∉ xs) (left' : c ∉ xs')
    (same : xs ++ c :: ys = xs' ++ c :: ys') : xs = xs' ∧ ys = ys' := by
  induction xs generalizing xs' with
  | nil =>
    cases xs' with
    | nil => exact ⟨rfl, List.tail_eq_of_cons_eq same⟩
    | cons x' xs' => exact absurd (List.head_eq_of_cons_eq same ▸ List.mem_cons_self) left'
  | cons x xs ih =>
    cases xs' with
    | nil => exact absurd (List.head_eq_of_cons_eq same ▸ List.mem_cons_self) left
    | cons x' xs' =>
      obtain ⟨head, tail⟩ := List.cons.inj same
      obtain ⟨rest, behind⟩ := ih (List.not_mem_of_not_mem_cons left) (List.not_mem_of_not_mem_cons left') tail
      exact ⟨by rw [head, rest], behind⟩

/-- The line, cut at its separators. -/
theorem fmt_eq_cut (p o d : U16) :
    fmt p o d =
      charT :: charSpace :: (dec p ++ charSpace :: (dec o ++ charSpace :: (dec d ++ charCR :: [charLF]))) := by
  simp [fmt]

/-- Settles O36: no numeral holds a space or a CR, so the three cuts are found again, and `DEC` is injective. -/
theorem reportLinesAreUnambiguous : Obligations.ReportLinesAreUnambiguous := by
  unfold Obligations.ReportLinesAreUnambiguous
  intro p o d p' o' d' same
  have space (v : U16) : charSpace ∉ dec v := notMem_dec (by decide) v
  have carriageReturn (v : U16) : charCR ∉ dec v := notMem_dec (by decide) v
  rw [fmt_eq_cut, fmt_eq_cut] at same
  have fields := List.tail_eq_of_cons_eq (List.tail_eq_of_cons_eq same)
  obtain ⟨pulses, fields⟩ := append_cons_inj_of_notMem_fronts (space p) (space p') fields
  obtain ⟨overflows, fields⟩ := append_cons_inj_of_notMem_fronts (space o) (space o') fields
  obtain ⟨delta, -⟩ := append_cons_inj_of_notMem_fronts (carriageReturn d) (carriageReturn d') fields
  exact ⟨dec_injective pulses, dec_injective overflows, dec_injective delta⟩

/-! ## Buffer access -/

theorem bufRead_of_le {m : Memory} {i : Nat} (inside : i ≤ 21) : bufRead m i = some (m.read i) :=
  if_pos (Nat.lt_succ_of_le inside)

theorem bufRead_of_lt {m : Memory} {i : Nat} (outside : 21 < i) : bufRead m i = none :=
  if_neg (Nat.not_lt.mpr outside)

theorem bufWrite_of_le {m : Memory} {i : Nat} (inside : i ≤ 21) (b : Byte) : bufWrite m i b = some (m.write i b) :=
  if_pos (Nat.lt_succ_of_le inside)

theorem bufWrite_of_lt {m : Memory} {i : Nat} (outside : 21 < i) (b : Byte) : bufWrite m i b = none :=
  if_neg (Nat.not_lt.mpr outside)

theorem exec_txrdy_outside {s : State} (armed : s.armed = true) (outside : 21 < s.cursor.toNat) :
    exec .txrdy s = .refused (.indexOutsideBuffer s.cursor.toNat) := by
  have noByte : byteAtCursor s = none := bufRead_of_lt outside
  rw [exec_txrdy_of_armed armed, hTx, noByte]
  rfl

/-- Settles O37, from the laws of one access; index 21 is the last inside, 22 the first outside. -/
theorem bufferAccessIsBoundedAndExact : Obligations.BufferAccessIsBoundedAndExact := by
  unfold Obligations.BufferAccessIsBoundedAndExact
  refine ⟨fun _ _ inside => bufRead_of_le inside, fun m i b canonical inside => ?_,
    fun _ _ b outside => ⟨bufRead_of_lt outside, bufWrite_of_lt outside b⟩, fun _ => exec_txrdy_outside⟩
  obtain ⟨-, kept, reads⟩ := bufWrite_spec canonical (bufWrite_of_le inside b)
  exact ⟨m.write i b, bufWrite_of_le inside b, kept, reads⟩

/-! ## The canonical form is canonical -/

theorem read_head (k : Nat) (v : Byte) (m : Memory) : Memory.read ((k, v) :: m) k = v := if_pos rfl

/-- The lowest entries stand at the same index: below its lowest entry a canonical buffer reads `TERM`. -/
theorem head_index_le {k k' lo' : Nat} {v v' : Byte} {m m' : Memory}
    (canonical' : Memory.wfFrom lo' ((k', v') :: m') = true) (entry : v ≠ Config.term)
    (reads : Memory.read ((k, v) :: m) k = Memory.read ((k', v') :: m') k) : k' ≤ k := by
  by_contra below
  obtain ⟨-, inside, notTerm, tail⟩ := Memory.wfFrom_cons.mp canonical'
  have raised : Memory.wfFrom k' ((k', v') :: m') = true :=
    Memory.wfFrom_cons.mpr ⟨Nat.le_refl k', inside, notTerm, tail⟩
  rw [read_head, Memory.read_below raised (Nat.lt_of_not_le below)] at reads
  exact entry reads

theorem read_tail_congr {k : Nat} {v : Byte} {m m' : Memory} (canonical : Memory.wfFrom (k + 1) m = true)
    (canonical' : Memory.wfFrom (k + 1) m' = true)
    (reads : ∀ i, Memory.read ((k, v) :: m) i = Memory.read ((k, v) :: m') i) (i : Nat) : m.read i = m'.read i := by
  by_cases head : k = i
  · have below : i < k + 1 := by omega
    rw [Memory.read_below canonical below, Memory.read_below canonical' below]
  · simpa [Memory.read, head] using reads i

theorem eq_of_read_eq {m m' : Memory} {lo : Nat} (canonical : Memory.wfFrom lo m = true)
    (canonical' : Memory.wfFrom lo m' = true) (reads : ∀ i, m.read i = m'.read i) : m = m' := by
  induction m generalizing lo m' with
  | nil =>
    have canonicalFromZero : m'.wf = true := Memory.wfFrom_mono canonical' (Nat.zero_le lo)
    exact (Memory.eq_nil_of_reads_term canonicalFromZero fun i => (reads i).symm).symm
  | cons c m ih =>
    obtain ⟨k, v⟩ := c
    obtain ⟨-, -, entry, tail⟩ := Memory.wfFrom_cons.mp canonical
    cases m' with
    | nil => exact absurd ((read_head k v m).symm.trans (reads k)) entry
    | cons c' m' =>
      obtain ⟨k', v'⟩ := c'
      obtain ⟨-, -, entry', tail'⟩ := Memory.wfFrom_cons.mp canonical'
      obtain rfl : k = k' := Nat.le_antisymm (head_index_le canonical entry' (reads k').symm)
        (head_index_le canonical' entry (reads k))
      obtain rfl : v = v' := by rw [← read_head k v m, reads k, read_head]
      rw [ih tail tail' (read_tail_congr tail tail' reads)]

/-- Settles O38, by induction on the entries; outside the buffer both read `TERM`. -/
theorem bufferContentsDetermineTheData : Obligations.BufferContentsDetermineTheData := by
  unfold Obligations.BufferContentsDetermineTheData
  intro m m' canonical canonical' reads
  refine eq_of_read_eq canonical canonical' fun i => ?_
  by_cases inside : i ≤ 21
  · exact reads i inside
  · have outside : Config.bufLen ≤ i := Nat.lt_of_not_le inside
    rw [Memory.read_outside canonical outside, Memory.read_outside canonical' outside]

end Sys2Proof.Proofs

/-! PROOFS. What an operation does, said once, and the invariant of 10_state.md section 9.

`Effect` lists the end states of the six operations; `exec_eq_next` says that it is `exec`. What every operation keeps
is then one case split over it. -/

namespace Sys2Proof.Proofs

open Sys2Proof.Machine Sys2Proof.Safety

/-! ## The effects of the operations -/

/-- The state `SVC_EDGE` leaves when its `LOAD` leaves the buffer `m` (R123). -/
def edgeServed (m : Memory) (s : State) : State := edgeHandled s.captureLatch m s.acceptEdge

/-- What an operation with a step does: the end state, and the condition under which it has that step (R34). -/
inductive Effect : Instr → State → State → Prop where
  /-- R210. -/
  | reset (s : State) : Effect .reset s (resetBlock s)
  /-- R100. -/
  | tick (s : State) : Effect .tick s (ticked 1 s)
  /-- R101. -/
  | fall (s : State) : Effect .fall s s.captureEdge
  /-- R123. -/
  | svcEdge {s : State} {m : Memory} (pending : s.edgePending = true)
      (written : bufWriteAll s.buf 0 (serviceMessage s ++ [Config.term]) = some m) :
      Effect .svcEdge s (edgeServed m s)
  /-- R121. -/
  | svcOvf {s : State} (pending : s.ovfPending = true) (noEdge : s.edgePending = false) :
      Effect .svcOvf s (hOvf s.acceptOverflow)
  /-- R162: a disarmed Transmitter drops the event. -/
  | dropped {s : State} (disarmed : s.armed = false) : Effect .txrdy s s
  /-- R161, at the terminator. -/
  | disarms {s : State} (armed : s.armed = true) (inside : s.cursor.toNat ≤ 21)
      (terminator : bufByte s s.cursor.toNat = Config.term) : Effect .txrdy s s.disarm
  /-- R161, at a message byte. -/
  | sends {s : State} (armed : s.armed = true) (inside : s.cursor.toNat ≤ 21)
      (byte : bufByte s s.cursor.toNat ≠ Config.term) :
      Effect .txrdy s (s.send (bufByte s s.cursor.toNat)).advanceCursor

theorem exec_svcEdge_eq_next {s t : State} :
    exec .svcEdge s = .next t ↔ s.edgePending = true ∧
      ∃ m, bufWriteAll s.buf 0 (serviceMessage s ++ [Config.term]) = some m ∧ t = edgeServed m s := by
  constructor
  · intro served
    obtain ⟨pending, handled⟩ := execSvcEdge_spec served
    exact ⟨pending, hEdge_eq_next.mp handled⟩
  · rintro ⟨pending, handled⟩
    calc exec .svcEdge s = hEdge s.captureLatch s.acceptEdge := if_pos pending
      _ = .next t := hEdge_eq_next.mpr handled

/-- `Effect` is `exec`, where it answers. -/
theorem exec_eq_next {i : Instr} {s t : State} : exec i s = .next t ↔ Effect i s t := by
  constructor
  · intro h
    cases i with
    | reset =>
      obtain rfl : resetBlock s = t := Host.Outcome.next.inj h
      exact .reset s
    | tick =>
      obtain rfl : ticked 1 s = t := Host.Outcome.next.inj ((exec_tick s).symm.trans h)
      exact .tick s
    | fall =>
      obtain rfl : s.captureEdge = t := Host.Outcome.next.inj h
      exact .fall s
    | svcEdge =>
      obtain ⟨pending, m, written, rfl⟩ := exec_svcEdge_eq_next.mp h
      exact .svcEdge pending written
    | svcOvf =>
      obtain ⟨pending, noEdge, rfl⟩ := execSvcOvf_spec h
      exact .svcOvf pending noEdge
    | txrdy =>
      rcases execTxrdy_spec h with ⟨disarmed, rfl⟩ | ⟨armed, handled⟩
      · exact .dropped disarmed
      · obtain ⟨inside, ⟨terminator, rfl⟩ | ⟨byte, rfl⟩⟩ := hTx_spec handled
        · exact .disarms armed (Nat.le_of_lt_succ inside) terminator
        · exact .sends armed (Nat.le_of_lt_succ inside) byte
  · intro effect
    cases effect with
    | reset => exact exec_reset s
    | tick => exact exec_tick s
    | fall => exact exec_fall s
    | svcEdge pending written => exact exec_svcEdge_eq_next.mpr ⟨pending, _, written, rfl⟩
    | svcOvf pending noEdge => exact exec_svcOvf_of_enabled pending noEdge
    | dropped disarmed => exact exec_txrdy_of_disarmed disarmed
    | disarms armed inside terminator => exact exec_txrdy_of_eq_term armed inside terminator
    | sends armed inside byte => exact exec_txrdy_of_ne_term armed inside byte

/-- `SVC_EDGE` has a step in every state with an Edge pending: every report fits the buffer (R129). -/
theorem svcEdge_completes {s : State} (pending : s.edgePending = true) : ∃ t, exec .svcEdge s = .next t :=
  execSvcEdge_completes pending

/-- R123 with R160: the message `SVC_EDGE` loads stands in the buffer. -/
theorem holdsMessage_of_svcEdge {s t : State} (canonical : BufferInv s) (served : exec .svcEdge s = .next t) :
    HoldsMessage t (serviceMessage s) := by
  obtain ⟨-, handled⟩ := execSvcEdge_spec served
  exact holdsMessage_of_hEdge (s := s.acceptEdge) canonical handled

/-! ## What each operation writes -/

/-- Settles O52: each effect leaves the fields of the other rows as they are, by its own definition. -/
theorem eachPieceOfStateHasItsWriters : Obligations.EachPieceOfStateHasItsWriters := by
  unfold Obligations.EachPieceOfStateHasItsWriters
  intro i s t h
  have stimulus := exec_stimulus h
  cases exec_eq_next.mp h with
  | reset => simp
  | tick => simp [ticked, bufByte]
  | fall => simp [bufByte]
  | svcEdge => simp [edgeServed, edgeHandled]
  | svcOvf => simp [hOvf, bufByte]
  | dropped => simp
  | disarms => simp [bufByte]
  | sends => simp [bufByte]

/-! ## The invariant -/

theorem rewoundInv_of_effect {i : Instr} {s t : State} (effect : Effect i s t) (rewound : RewoundInv s) :
    RewoundInv t := by
  cases effect with
  | reset => exact fun _ => rfl
  | tick => exact rewound
  | fall => exact rewound
  | svcEdge => exact fun _ => rfl
  | svcOvf => exact rewound
  | dropped => exact rewound
  | disarms => exact fun _ => rfl
  | sends armed => exact fun disarmed => absurd (armed.symm.trans disarmed) (by decide)

/-- A buffer that holds a line holds message bytes and `TERM` only, as before the line beyond it. -/
theorem messageByte_of_svcEdge {s t : State} (canonical : BufferInv s) (served : exec .svcEdge s = .next t)
    (bytes : ∀ i : Fin 22, bufByte s i = Config.term ∨ isMessageByte (bufByte s i) = true) (i : Fin 22) :
    bufByte t i = Config.term ∨ isMessageByte (bufByte t i) = true := by
  obtain ⟨-, handled⟩ := execSvcEdge_spec served
  rw [bufByte_of_hEdge (s := s.acceptEdge) canonical handled]
  split
  next inside =>
    rcases List.mem_append.mp (List.getElem_mem inside) with mem | mem
    · exact .inr (isMessageByte_of_mem_fmt mem)
    · exact .inl (List.mem_singleton.mp mem)
  next => exact bytes i

/-- R73: a byte goes to the wire from the buffer only, and it is not the terminator. -/
theorem exec_keeps_bytesInv {i : Instr} {s t : State} (h : exec i s = .next t) (canonical : BufferInv s)
    (bytes : BytesInv s) : BytesInv t := by
  obtain ⟨buffer, wire⟩ := bytes
  cases exec_eq_next.mp h with
  | reset => exact ⟨fun i => .inl (bufByte_resetBlock s i), wire⟩
  | tick => exact ⟨buffer, wire⟩
  | fall => exact ⟨buffer, wire⟩
  | svcEdge => exact ⟨messageByte_of_svcEdge canonical h buffer, wire⟩
  | svcOvf => exact ⟨buffer, wire⟩
  | dropped => exact ⟨buffer, wire⟩
  | disarms => exact ⟨buffer, wire⟩
  | sends _ inside byte =>
    refine ⟨buffer, fun b mem => ?_⟩
    rcases List.mem_append.mp mem with mem | mem
    · exact wire b mem
    · rw [List.mem_singleton.mp mem]
      exact (buffer ⟨s.cursor.toNat, Nat.lt_succ_of_le inside⟩).resolve_left byte

theorem exec_keeps_inv {i : Instr} {s t : State} (h : exec i s = .next t) (invariant : Inv s) : Inv t := by
  obtain ⟨canonical, terminator, rewound, bytes⟩ := invariant
  exact ⟨exec_keeps_bufferInv h canonical, exec_keeps_terminatorInv h canonical terminator,
    rewoundInv_of_effect (exec_eq_next.mp h) rewound, exec_keeps_bytesInv h canonical bytes⟩

theorem inv_reset : Inv State.reset :=
  ⟨reset_buf_wf, terminatorInv_reset, fun _ => rfl, fun i => .inl (bufByte_reset i),
    fun _ mem => absurd mem List.not_mem_nil⟩

theorem inv_of_reachable {s : State} (reachable : Reachable s) : Inv s :=
  reachable_induction inv_reset exec_keeps_inv reachable

/-- Settles O55: the buffer is empty, so it reads `TERM` everywhere, and the cursor and the wire are at their start. -/
theorem resetStateMeetsInv : Obligations.ResetStateMeetsInv := by
  unfold Obligations.ResetStateMeetsInv
  exact inv_reset

/-- All that a step does when it answers: the block idles, or an operation runs with its code taken. -/
theorem step_eq_next {s t : State} (h : step s = .next t) :
    t = s ∨ ∃ i rest, exec i (s.setStimulus rest) = .next t := by
  cases decoded : decode s.stimulus with
  | ok next =>
    obtain ⟨i, rest⟩ := next
    exact .inr ⟨i, rest, (step_of_decode decoded).symm.trans h⟩
  | error e =>
    cases e with
    | noCode =>
      simp only [step, fetch, decoded, Host.Outcome.next.injEq] at h
      exact .inl h.symm
    | reservedCode c => simp [step, fetch, decoded] at h

/-- Settles O56: the invariant does not read the stimulus, and each operation keeps each of its four parts. -/
theorem everyStepKeepsInv : Obligations.EveryStepKeepsInv := by
  unfold Obligations.EveryStepKeepsInv
  intro s t invariant stepped
  rcases step_eq_next stepped with rfl | ⟨i, rest, applied⟩
  · exact invariant
  · have codeTaken : Inv (s.setStimulus rest) := invariant
    exact exec_keeps_inv applied codeTaken

/-- Settles O47: the wire's part of the invariant. -/
theorem wireCarriesMessageBytesOnly : Obligations.WireCarriesMessageBytesOnly := by
  unfold Obligations.WireCarriesMessageBytesOnly
  intro s reachable
  obtain ⟨-, -, -, -, wire⟩ := inv_of_reachable reachable
  exact wire

/-- Settles O57: the invariant, with the cursor's bound and its increment computed from it. -/
theorem cursorNeverPassesTheTerminator : Obligations.CursorNeverPassesTheTerminator := by
  unfold Obligations.CursorNeverPassesTheTerminator
  intro s reachable
  obtain ⟨-, terminator, rewound, -⟩ := inv_of_reachable reachable
  have inside : s.cursor.toNat ≤ 21 := cursor_le_of_terminatorInv terminator
  exact ⟨terminator, inside, bufRead_of_le inside, advanceCursor_cursor_toNat inside, rewound⟩

/-- Settles O53: the environment's operations have a step by the invariant, the services by their guards. -/
theorem operationsHaveAStepExactlyWhenEnabled : Obligations.OperationsHaveAStepExactlyWhenEnabled := by
  unfold Obligations.OperationsHaveAStepExactlyWhenEnabled
  rintro i s ⟨-, terminator, -, -⟩
  cases i with
  | reset => exact ⟨fun _ => ⟨_, exec_reset s⟩, fun _ => rfl⟩
  | tick => exact ⟨fun _ => ⟨_, exec_tick s⟩, fun _ => rfl⟩
  | fall => exact ⟨fun _ => ⟨_, exec_fall s⟩, fun _ => rfl⟩
  | svcEdge =>
    refine ⟨fun guard => svcEdge_completes guard, fun ⟨_, served⟩ => ?_⟩
    obtain ⟨pending, -⟩ := execSvcEdge_spec served
    exact pending
  | svcOvf =>
    refine ⟨fun guard => ?_, fun ⟨_, served⟩ => ?_⟩
    · obtain ⟨pending, noEdge⟩ := svcOvfEnabled_eq_true.mp guard
      exact ⟨_, exec_svcOvf_of_enabled pending noEdge⟩
    · obtain ⟨pending, noEdge, -⟩ := execSvcOvf_spec served
      exact svcOvfEnabled_eq_true.mpr ⟨pending, noEdge⟩
  | txrdy => exact ⟨fun _ => exec_txrdy_completes (cursor_le_of_terminatorInv terminator), fun _ => rfl⟩

end Sys2Proof.Proofs

/-! PROOFS. Bytes beyond the terminator never reach the wire (R38): a relation of two states that differ in such bytes
only, kept by every operation. -/

namespace Sys2Proof.Proofs

open Sys2Proof.Machine Sys2Proof.Safety

/-! ## Buffers that agree up to the terminator -/

/-- The two buffers have their first terminator at the same index and the same bytes before it. -/
def AgreeUpToTerminator (s t : State) : Prop :=
  ∃ L : Fin 22, bufByte s L = Config.term ∧ bufByte t L = Config.term ∧
    ∀ i : Fin 22, i < L → bufByte s i = bufByte t i ∧ bufByte s i ≠ Config.term

theorem sameUpToTerminator_iff {s t : State} :
    SameUpToTerminator s t ↔ { s with buf := t.buf } = t ∧ AgreeUpToTerminator s t := Iff.rfl

theorem agreeUpToTerminator_refl {s : State} (invariant : TerminatorInv s) : AgreeUpToTerminator s s := by
  obtain ⟨L, terminator, least, -⟩ := invariant
  exact ⟨L, terminator, terminator, fun i before => ⟨rfl, least i before⟩⟩

/-- Two buffers that hold the same message agree, whatever stands behind it. -/
theorem agreeUpToTerminator_of_holdsMessage {s t : State} {msg : List Byte} (wellFormed : messageWellFormed msg = true)
    (holds : HoldsMessage s msg) (holds' : HoldsMessage t msg) : AgreeUpToTerminator s t := by
  obtain ⟨-, fits, noTerm⟩ := messageWellFormed_eq_true.mp wellFormed
  refine ⟨⟨msg.length, Nat.lt_succ_of_le fits⟩, bufByte_length_of_holdsMessage holds,
    bufByte_length_of_holdsMessage holds', fun i before => ?_⟩
  have within : i.val < msg.length := before
  rw [bufByte_of_holdsMessage_of_lt holds within, bufByte_of_holdsMessage_of_lt holds' within]
  exact ⟨rfl, noTerm _ (List.getElem_mem within)⟩

/-- The cursor is not beyond the terminator, so both Transmitters read the same byte. -/
theorem bufByte_cursor_of_agree {s t : State} (invariant : TerminatorInv s) (agree : AgreeUpToTerminator s t) :
    bufByte t s.cursor.toNat = bufByte s s.cursor.toNat := by
  obtain ⟨K, -, least, notBeyond⟩ := invariant
  obtain ⟨L, terminator, terminator', before⟩ := agree
  have first : K ≤ L := by
    by_contra beyond
    exact least L (lt_of_not_ge beyond) terminator
  rcases Nat.lt_or_eq_of_le (Nat.le_trans notBeyond first) with below | there
  · obtain ⟨same, -⟩ := before ⟨s.cursor.toNat, by omega⟩ below
    exact same.symm
  · rw [there, terminator, terminator']

/-! ## The relation is kept -/

/-- One operation from two states that differ beyond the terminator only. -/
theorem exec_keeps_sameUpToTerminator {i : Instr} {s t s' : State} (invariant : Inv s) (canonical' : BufferInv t)
    (same : SameUpToTerminator s t) (h : exec i s = .next s') :
    ∃ t', exec i t = .next t' ∧ SameUpToTerminator s' t' := by
  obtain ⟨frame, agree⟩ := sameUpToTerminator_iff.mp same
  obtain ⟨canonical, terminatorInv, -, -⟩ := invariant
  obtain ⟨m, rfl⟩ : ∃ m, t = { s with buf := m } := ⟨t.buf, frame.symm⟩
  have byte_same := bufByte_cursor_of_agree terminatorInv agree
  cases exec_eq_next.mp h with
  | reset => exact ⟨_, exec_reset _, rfl, agreeUpToTerminator_refl terminatorInv_reset⟩
  | tick => exact ⟨_, exec_tick _, rfl, agree⟩
  | fall => exact ⟨_, exec_fall _, rfl, agree⟩
  | svcEdge pending =>
    obtain ⟨t', served'⟩ := svcEdge_completes (s := { s with buf := m }) pending
    have holds' : HoldsMessage t' (serviceMessage s) :=
      holdsMessage_of_svcEdge (s := { s with buf := m }) canonical' served'
    have agree' := agreeUpToTerminator_of_holdsMessage (messageWellFormed_fmt _ _ _)
      (holdsMessage_of_svcEdge canonical h) holds'
    obtain ⟨-, m', -, rfl⟩ := exec_svcEdge_eq_next.mp served'
    exact ⟨_, served', rfl, agree'⟩
  | svcOvf pending noEdge => exact ⟨_, exec_svcOvf_of_enabled pending noEdge, rfl, agree⟩
  | dropped disarmed => exact ⟨_, exec_txrdy_of_disarmed disarmed, rfl, agree⟩
  | disarms armed inside terminator =>
    exact ⟨_, exec_txrdy_of_eq_term armed inside (byte_same.trans terminator), rfl, agree⟩
  | sends armed inside byte =>
    refine ⟨_, exec_txrdy_of_ne_term armed inside (byte_same ▸ byte), ?_, agree⟩
    simp only [byte_same]
    rfl

/-- Settles O51, by induction on the run, with the invariant kept on both sides; equal wires are part of the
relation. -/
theorem staleBytesNeverReachTheWire : Obligations.StaleBytesNeverReachTheWire := by
  unfold Obligations.StaleBytesNeverReachTheWire
  intro ops
  induction ops with
  | nil =>
    intro s t s' _ _ same run
    obtain rfl : s = s' := Host.Outcome.next.inj run
    exact ⟨t, rfl, (congrArg State.wire same.1).symm, same⟩
  | cons i is ih =>
    intro s t s' invariant invariant' same run
    obtain ⟨u, first, rest⟩ := runOps_cons_eq_next.mp run
    have canonical' : BufferInv t := invariant'.1
    obtain ⟨u', first', same'⟩ := exec_keeps_sameUpToTerminator invariant canonical' same first
    obtain ⟨t', rest', outcome⟩ :=
      ih u u' s' (exec_keeps_inv first invariant) (exec_keeps_inv first' invariant') same' rest
    exact ⟨t', (runOps_cons_of_next first').trans rest', outcome⟩

end Sys2Proof.Proofs

/-! PROOFS. Draining a message (43_transmitter.md section 3): what the wire and the Transmitter are after each number of
transmit-ready events since a load, and from that the wire of a whole run. -/

namespace Sys2Proof.Proofs

open Sys2Proof.Machine Sys2Proof.Safety

/-! ## The Transmitter's part of the state -/

/-- The two states have the same Transmitter and the same wire. -/
def SameTransmitter (s t : State) : Prop :=
  t.buf = s.buf ∧ t.cursor = s.cursor ∧ t.armed = s.armed ∧ t.wire = s.wire

theorem sameTransmitter_refl (s : State) : SameTransmitter s s := ⟨rfl, rfl, rfl, rfl⟩

theorem sameTransmitter_trans {s t u : State} (first : SameTransmitter s t) (second : SameTransmitter t u) :
    SameTransmitter s u := by
  obtain ⟨buf, cursor, armed, wire⟩ := first
  obtain ⟨buf', cursor', armed', wire'⟩ := second
  exact ⟨buf'.trans buf, cursor'.trans cursor, armed'.trans armed, wire'.trans wire⟩

/-- Ticks, captures and overflow services do not reach the Transmitter (R34). -/
theorem sameTransmitter_of_exec {i : Instr} {s t : State} (h : exec i s = .next t) (notReset : i ≠ .reset)
    (notEdge : i ≠ .svcEdge) (notTxrdy : i ≠ .txrdy) : SameTransmitter s t := by
  cases exec_eq_next.mp h with
  | reset => exact absurd rfl notReset
  | svcEdge => exact absurd rfl notEdge
  | dropped | disarms | sends => exact absurd rfl notTxrdy
  | tick | fall | svcOvf => exact sameTransmitter_refl s

/-! ## A message being drained -/

/-- `k` transmit-ready events after a load of `msg`, with `earlier` on the wire before it. -/
structure Draining (msg : List Byte) (k : Nat) (earlier : List Byte) (s : State) : Prop where
  holds : HoldsMessage s msg
  wire : s.wire = earlier ++ msg.take k
  sending : k ≤ msg.length → s.armed = true ∧ s.cursor.toNat = k
  drained : msg.length < k → s.armed = false ∧ s.cursor = 0#5

theorem draining_start {msg : List Byte} {s : State} (holds : HoldsMessage s msg) (armed : s.armed = true)
    (rewound : s.cursor = 0#5) : Draining msg 0 s.wire s where
  holds := holds
  wire := by simp
  sending := fun _ => ⟨armed, by simp [rewound]⟩
  drained := fun beyond => absurd beyond (Nat.not_lt_zero _)

theorem draining_of_load {msg : List Byte} {s t : State} (canonical : BufferInv s) (loaded : load msg s = .next t) :
    Draining msg 0 s.wire t := by
  have start := draining_start (holdsMessage_of_load canonical loaded) (armed_of_load loaded) (cursor_of_load loaded)
  rwa [show t.wire = s.wire by rw [load_frame loaded]] at start

theorem draining_of_svcEdge {s t : State} (canonical : BufferInv s) (served : exec .svcEdge s = .next t) :
    Draining (serviceMessage s) 0 s.wire t := by
  have holds := holdsMessage_of_svcEdge canonical served
  obtain ⟨-, m, -, rfl⟩ := exec_svcEdge_eq_next.mp served
  exact draining_start holds rfl rfl

theorem draining_of_sameTransmitter {msg earlier : List Byte} {k : Nat} {s t : State}
    (draining : Draining msg k earlier s) (same : SameTransmitter s t) : Draining msg k earlier t := by
  obtain ⟨buf, cursor, armed, wire⟩ := same
  obtain ⟨holds, sent, sending, drained⟩ := draining
  exact ⟨by rwa [HoldsMessage, buf], wire.trans sent, by rwa [armed, cursor], by rwa [armed, cursor]⟩

/-- One more event: a byte, the terminator, or nothing any more (R161, R162). -/
theorem draining_txrdy {msg earlier : List Byte} {k : Nat} {s t : State} (wellFormed : messageWellFormed msg = true)
    (draining : Draining msg k earlier s) (h : exec .txrdy s = .next t) : Draining msg (k + 1) earlier t := by
  obtain ⟨-, fits, noTerm⟩ := messageWellFormed_eq_true.mp wellFormed
  obtain ⟨holds, wire, sending, drained⟩ := draining
  rcases Nat.lt_trichotomy k msg.length with before | atEnd | beyond
  · obtain ⟨armed, cursor⟩ := sending (Nat.le_of_lt before)
    have byte : bufByte s s.cursor.toNat = msg[k] := by
      rw [cursor, bufByte_of_holdsMessage_of_lt holds before]
    have inside : s.cursor.toNat ≤ 21 := by omega
    have notTerm : bufByte s s.cursor.toNat ≠ Config.term := byte ▸ noTerm _ (List.getElem_mem before)
    obtain rfl : _ = t := Host.Outcome.next.inj ((exec_txrdy_of_ne_term armed inside notTerm).symm.trans h)
    refine ⟨holds, ?_, fun _ => ⟨armed, ?_⟩, fun beyond => by omega⟩
    · rw [State.advanceCursor_wire, State.send_wire, wire, byte, List.append_assoc, List.take_append_getElem]
    · exact (advanceCursor_cursor_toNat inside).trans (congrArg (· + 1) cursor)
  · obtain ⟨armed, cursor⟩ := sending (Nat.le_of_eq atEnd)
    have terminator : bufByte s s.cursor.toNat = Config.term := by
      rw [cursor, atEnd, bufByte_length_of_holdsMessage holds]
    obtain rfl : _ = t :=
      Host.Outcome.next.inj ((exec_txrdy_of_eq_term armed (by omega) terminator).symm.trans h)
    refine ⟨holds, ?_, fun before => by omega, fun _ => ⟨rfl, rfl⟩⟩
    rw [State.disarm_wire, wire, List.take_of_length_le (by omega), List.take_of_length_le (by omega)]
  · obtain ⟨disarmed, rewound⟩ := drained beyond
    obtain rfl : s = t := Host.Outcome.next.inj ((exec_txrdy_of_disarmed disarmed).symm.trans h)
    refine ⟨holds, ?_, fun before => by omega, fun _ => ⟨disarmed, rewound⟩⟩
    rw [wire, List.take_of_length_le (by omega), List.take_of_length_le (by omega)]

theorem draining_exec {msg earlier : List Byte} {k : Nat} {i : Instr} {s t : State}
    (wellFormed : messageWellFormed msg = true) (draining : Draining msg k earlier s) (notReset : i ≠ .reset)
    (notEdge : i ≠ .svcEdge) (h : exec i s = .next t) : Draining msg (k + countOp .txrdy [i]) earlier t := by
  by_cases txrdy : i = .txrdy
  · subst txrdy
    exact draining_txrdy wellFormed draining h
  · have none : countOp .txrdy [i] = 0 := by simp [countOp, txrdy]
    rw [none]
    exact draining_of_sameTransmitter draining (sameTransmitter_of_exec h notReset notEdge txrdy)

/-- The drain of a run that loads nothing, whatever else lies in it. -/
theorem draining_runOps {msg earlier : List Byte} {k : Nat} {ops : List Instr} {s t : State}
    (wellFormed : messageWellFormed msg = true) (draining : Draining msg k earlier s)
    (quiet : ∀ i ∈ ops, i = .tick ∨ i = .fall ∨ i = .svcOvf ∨ i = .txrdy) (run : runOps ops s = .next t) :
    Draining msg (k + countOp .txrdy ops) earlier t := by
  induction ops generalizing k s with
  | nil =>
    obtain rfl : s = t := Host.Outcome.next.inj run
    exact draining
  | cons i is ih =>
    obtain ⟨u, first, rest⟩ := runOps_cons_eq_next.mp run
    have notReset : i ≠ .reset := by rintro rfl; simpa using quiet _ List.mem_cons_self
    have notEdge : i ≠ .svcEdge := by rintro rfl; simpa using quiet _ List.mem_cons_self
    rw [countOp_cons, ← Nat.add_assoc]
    exact ih (draining_exec wellFormed draining notReset notEdge first)
      (fun j mem => quiet j (List.mem_cons_of_mem i mem)) rest

/-- Settles O41: the drain in closed form, from the load on. -/
theorem completeDrainSendsTheWholeMessage : Obligations.CompleteDrainSendsTheWholeMessage := by
  unfold Obligations.CompleteDrainSendsTheWholeMessage
  intro msg s s0 t ops wellFormed canonical loaded quiet run
  have draining := draining_runOps wellFormed (draining_of_load canonical loaded) quiet run
  rw [Nat.zero_add] at draining
  exact ⟨draining.wire, draining.sending, draining.drained⟩

/-- Settles O42: two drains, the second with the sent part of the first already on the wire. -/
theorem overwriteCutsTheOldLine : Obligations.OverwriteCutsTheOldLine := by
  unfold Obligations.OverwriteCutsTheOldLine
  intro old new s s0 s1 s2 s3 ops ops' oldWellFormed newWellFormed canonical loaded quiet cut run reloaded quiet' run'
  obtain ⟨m, rfl, canonical0, -⟩ := load_spec canonical loaded
  have canonical1 : BufferInv s1 := runOps_keeps exec_keeps_bufferInv run canonical0
  have first := draining_runOps oldWellFormed (draining_of_load canonical loaded) quiet run
  have second := draining_runOps newWellFormed (draining_of_load canonical1 reloaded) quiet' run'
  rw [Nat.zero_add] at first second
  obtain ⟨armed, -⟩ := first.sending cut
  refine ⟨armed, armed_of_load reloaded, cursor_of_load reloaded, holdsMessage_of_load canonical1 reloaded, ?_⟩
  rw [second.wire, first.wire]

/-! ## The end of the drain -/

/-- Settles O44: the bytes up to the terminator, and one more event that meets it. -/
theorem drainEndsWithinTwentyTwoEvents : Obligations.DrainEndsWithinTwentyTwoEvents := by
  unfold Obligations.DrainEndsWithinTwentyTwoEvents
  rintro s ⟨-, ⟨L, terminator, least, notBeyond⟩, rewound, -⟩
  cases armed : s.armed with
  | false => exact ⟨0, s, Nat.zero_le 22, rfl, armed, rewound armed, rfl⟩
  | true =>
    have inside : s.cursor.toNat + (L.val - s.cursor.toNat) ≤ 22 := by omega
    have drained := runOps_txrdys armed inside (fun a _ ha => least ⟨a, by omega⟩ (show a < L.val by omega))
    have cursor : (sent (L.val - s.cursor.toNat) s).cursor.toNat = L.val := by
      rw [sent_cursor_toNat inside]
      omega
    have last : exec .txrdy (sent (L.val - s.cursor.toNat) s) = .next (sent (L.val - s.cursor.toNat) s).disarm :=
      exec_txrdy_of_eq_term armed (by omega) (by rw [cursor, bufByte_sent, terminator])
    refine ⟨L.val - s.cursor.toNat + 1, (sent (L.val - s.cursor.toNat) s).disarm, by omega, ?_, rfl, rfl, rfl⟩
    rw [expandLine, List.replicate_succ', runOps_append_of_next drained, runOps_singleton_of_next last]

/-! ## A transmit-ready event beside a service -/

/-- All that `TXRDY` may change (R34): the wire, the cursor and `armed`. -/
theorem exec_txrdy_frame {s t : State} (h : exec .txrdy s = .next t) :
    t = { s with wire := t.wire, cursor := t.cursor, armed := t.armed } := by
  cases exec_eq_next.mp h with
  | dropped | disarms | sends => rfl

theorem fmt_zero_getElem (p o d : U16) (inside : 0 < (fmt p o d).length) : (fmt p o d)[0] = 0x54#8 := rfl

/-- Settles O45: `SVC_EDGE` reads nothing that `TXRDY` writes, and rewinds what it writes but for the wire. -/
theorem transmitReadyMayFallBeforeOrAfterAService : Obligations.TransmitReadyMayFallBeforeOrAfterAService := by
  unfold Obligations.TransmitReadyMayFallBeforeOrAfterAService
  rintro s ⟨canonical, terminatorInv, -, -⟩ pending
  obtain ⟨s1, offered⟩ := exec_txrdy_completes (cursor_le_of_terminatorInv terminatorInv)
  have wire := exec_wire offered
  obtain ⟨u1, served⟩ := svcEdge_completes pending
  have holds := holdsMessage_of_svcEdge canonical served
  obtain ⟨-, m, written, rfl⟩ := exec_svcEdge_eq_next.mp served
  have frame := exec_txrdy_frame offered
  have served' : exec .svcEdge s1 = .next (edgeServed m s1) := by
    rw [frame]
    exact exec_svcEdge_eq_next.mpr ⟨pending, m, written, rfl⟩
  have first : bufByte (edgeServed m s) 0 = 0x54#8 := by
    rw [bufByte_of_holdsMessage_of_lt holds (Nat.lt_of_lt_of_le (by decide) (le_fmt_length _ _ _))]
    exact fmt_zero_getElem _ _ _ _
  have notTerm : bufByte (edgeServed m s) 0 ≠ Config.term := by
    rw [first]
    decide
  have offered' : exec .txrdy (edgeServed m s) = .next ((edgeServed m s).send 0x54#8).advanceCursor := by
    rw [← first]
    exact exec_txrdy_of_ne_term rfl (Nat.zero_le 21) notTerm
  refine ⟨_, _, (runOps_cons_of_next offered).trans (runOps_singleton_of_next served'),
    (runOps_cons_of_next served).trans (runOps_singleton_of_next offered'), wire, rfl, rfl, rfl, ?_⟩
  rw [frame]
  rfl

end Sys2Proof.Proofs

/-! PROOFS. The wire of a whole run (43_transmitter.md section 3) and when it is whole lines (R221, conflict C7).

The record of loaded messages is tied to the state by `LogInv`: the newest message is being drained, and the wire before
it is the sent parts of the older ones. -/

namespace Sys2Proof.Proofs

open Sys2Proof.Machine Sys2Proof.Safety

/-! ## The record of a run and the wire -/

/-- The sent parts of the messages of a record. -/
def sentParts (log : List (List Byte × Nat)) : List Byte := log.flatMap (fun e => e.1.take e.2)

@[simp] theorem sentParts_nil : sentParts [] = [] := rfl

@[simp] theorem sentParts_cons (e : List Byte × Nat) (log : List (List Byte × Nat)) :
    sentParts (e :: log) = e.1.take e.2 ++ sentParts log := List.flatMap_cons

theorem sentParts_append_singleton (log : List (List Byte × Nat)) (e : List Byte × Nat) :
    sentParts (log ++ [e]) = sentParts log ++ e.1.take e.2 := by
  simp [sentParts]

/-- The record, newest first, describes the state: nothing was loaded and nothing sent, or the newest message is being
drained behind the sent parts of the older ones. -/
def LogInv : List (List Byte × Nat) → State → Prop
  | [], s => s.armed = false ∧ s.wire = []
  | (msg, k) :: older, s => messageWellFormed msg = true ∧ Draining msg k (sentParts older.reverse) s

theorem wire_of_logInv {log : List (List Byte × Nat)} {s : State} (invariant : LogInv log s) :
    s.wire = sentParts log.reverse := by
  cases log with
  | nil =>
    obtain ⟨-, empty⟩ := invariant
    exact empty
  | cons e older =>
    obtain ⟨-, draining⟩ := invariant
    rw [List.reverse_cons, sentParts_append_singleton, draining.wire]

theorem logInv_of_sameTransmitter {log : List (List Byte × Nat)} {s t : State} (invariant : LogInv log s)
    (same : SameTransmitter s t) : LogInv log t := by
  cases log with
  | nil =>
    obtain ⟨-, -, armed, wire⟩ := same
    obtain ⟨disarmed, empty⟩ := invariant
    exact ⟨armed.trans disarmed, wire.trans empty⟩
  | cons e older =>
    obtain ⟨wellFormed, draining⟩ := invariant
    exact ⟨wellFormed, draining_of_sameTransmitter draining same⟩

theorem logInv_svcEdge {log : List (List Byte × Nat)} {s t : State} (canonical : BufferInv s) (invariant : LogInv log s)
    (served : exec .svcEdge s = .next t) : LogInv ((serviceMessage s, 0) :: log) t := by
  refine ⟨messageWellFormed_fmt _ _ _, ?_⟩
  rw [← wire_of_logInv invariant]
  exact draining_of_svcEdge canonical served

theorem logInv_txrdy {log : List (List Byte × Nat)} {s t : State} (invariant : LogInv log s)
    (h : exec .txrdy s = .next t) : LogInv (logOp .txrdy s log) t := by
  cases log with
  | nil =>
    obtain ⟨disarmed, empty⟩ := invariant
    obtain rfl : s = t := Host.Outcome.next.inj ((exec_txrdy_of_disarmed disarmed).symm.trans h)
    exact ⟨disarmed, empty⟩
  | cons e older =>
    obtain ⟨wellFormed, draining⟩ := invariant
    exact ⟨wellFormed, draining_txrdy wellFormed draining h⟩

theorem exec_keeps_logInv {i : Instr} {log : List (List Byte × Nat)} {s t : State} (h : exec i s = .next t)
    (notReset : i ≠ .reset) (canonical : BufferInv s) (invariant : LogInv log s) : LogInv (logOp i s log) t := by
  cases i with
  | reset => exact absurd rfl notReset
  | svcEdge => exact logInv_svcEdge canonical invariant h
  | txrdy => exact logInv_txrdy invariant h
  | tick | fall | svcOvf =>
    exact logInv_of_sameTransmitter invariant (sameTransmitter_of_exec h (by decide) (by decide) (by decide))

theorem lineLogFrom_cons_of_next {i : Instr} {s t : State} (first : exec i s = .next t) (is : List Instr)
    (log : List (List Byte × Nat)) : lineLogFrom (i :: is) s log = lineLogFrom is t (logOp i s log) := by
  simp only [lineLogFrom, first]

/-- What every operation but `RESET` keeps of the record and the state holds at the end of a run without one. -/
theorem lineLogFrom_keeps {P : List (List Byte × Nat) → State → Prop}
    (kept : ∀ {i log s t}, exec i s = .next t → i ≠ .reset → P log s → P (logOp i s log) t) {ops : List Instr}
    {log : List (List Byte × Nat)} {s t : State} (noReset : ResetFree ops) (run : runOps ops s = .next t)
    (start : P log s) : P (lineLogFrom ops s log) t := by
  induction ops generalizing log s with
  | nil =>
    obtain rfl : s = t := Host.Outcome.next.inj run
    exact start
  | cons i is ih =>
    obtain ⟨u, first, rest⟩ := runOps_cons_eq_next.mp run
    have notReset : i ≠ .reset := (List.ne_of_not_mem_cons noReset).symm
    rw [lineLogFrom_cons_of_next first]
    exact ih (List.not_mem_of_not_mem_cons noReset) rest (kept first notReset start)

theorem wire_eq_sentParts {ops : List Instr} {t : State} (noReset : ResetFree ops)
    (run : runOps ops State.reset = .next t) : t.wire = sentParts (lineLog ops State.reset) := by
  obtain ⟨-, invariant⟩ := lineLogFrom_keeps (P := fun log s => BufferInv s ∧ LogInv log s) (log := [])
    (fun h notReset ⟨canonical, invariant⟩ =>
      ⟨exec_keeps_bufferInv h canonical, exec_keeps_logInv h notReset canonical invariant⟩)
    noReset run ⟨reset_buf_wf, rfl, rfl⟩
  exact wire_of_logInv invariant

/-- Settles O48, by the invariant that ties the record to the state. -/
theorem wireIsTheSentPartsOfTheMessages : Obligations.WireIsTheSentPartsOfTheMessages := by
  unfold Obligations.WireIsTheSentPartsOfTheMessages
  exact fun _ _ => wire_eq_sentParts

/-! ## The messages of a record

They are report lines whose pulse counts are consecutive, so no message equals the next one. -/

/-- The messages of a record, newest first, are lines with the pulse counts `p`, `p - 1` and so on. -/
def Numbered : U16 → List (List Byte × Nat) → Prop
  | _, [] => True
  | p, e :: older => (∃ o d, e.1 = fmt p o d) ∧ Numbered (p - 1#16) older

theorem exec_keeps_numbered {i : Instr} {log : List (List Byte × Nat)} {s t : State} (h : exec i s = .next t)
    (notReset : i ≠ .reset) (numbered : Numbered s.pulses log) : Numbered t.pulses (logOp i s log) := by
  by_cases edge : i = .svcEdge
  · subst edge
    obtain ⟨-, m, -, rfl⟩ := exec_svcEdge_eq_next.mp h
    refine ⟨⟨_, _, rfl⟩, ?_⟩
    rwa [show (edgeServed m s).pulses - 1#16 = s.pulses from BitVec.add_sub_cancel s.pulses 1#16]
  · rw [exec_pulses_of_ne notReset edge h]
    cases i with
    | reset => exact absurd rfl notReset
    | svcEdge => exact absurd rfl edge
    | tick | fall | svcOvf => exact numbered
    | txrdy => cases log <;> exact numbered

theorem line_of_numbered {p : U16} {log : List (List Byte × Nat)} (numbered : Numbered p log) :
    ∀ e ∈ log, ∃ p o d, e.1 = fmt p o d := by
  induction log generalizing p with
  | nil => exact fun _ mem => absurd mem List.not_mem_nil
  | cons e older ih =>
    obtain ⟨⟨o, d, line⟩, rest⟩ := numbered
    rintro e' (_ | ⟨_, mem⟩)
    · exact ⟨p, o, d, line⟩
    · exact ih rest e' mem

theorem pulses_of_fmt_eq {p o d p' o' d' : U16} (same : fmt p o d = fmt p' o' d') : p = p' :=
  (reportLinesAreUnambiguous p o d p' o' d' same).1

theorem isChain_ne_of_numbered {p : U16} {log : List (List Byte × Nat)} (numbered : Numbered p log) :
    log.IsChain (fun newer older => newer.1 ≠ older.1) := by
  induction log generalizing p with
  | nil => exact .nil
  | cons e older ih =>
    obtain ⟨⟨o, d, line⟩, rest⟩ := numbered
    cases older with
    | nil => exact .singleton e
    | cons e' older =>
      obtain ⟨⟨o', d', line'⟩, -⟩ := id rest
      refine .cons_cons (fun same => ?_) (ih rest)
      have pulses : p = p - 1#16 := pulses_of_fmt_eq (line.symm.trans (same.trans line'))
      bv_omega

theorem numbered_lineLogFrom {ops : List Instr} {t : State} (noReset : ResetFree ops)
    (run : runOps ops State.reset = .next t) : Numbered t.pulses (lineLogFrom ops State.reset []) :=
  lineLogFrom_keeps (P := fun log s => Numbered s.pulses log) exec_keeps_numbered noReset run trivial

theorem line_of_mem_lineLog {ops : List Instr} {t : State} (noReset : ResetFree ops)
    (run : runOps ops State.reset = .next t) : ∀ e ∈ lineLog ops State.reset, ∃ p o d, e.1 = fmt p o d :=
  fun e mem => line_of_numbered (numbered_lineLogFrom noReset run) e (List.mem_reverse.mp mem)

theorem isChain_ne_lineLog {ops : List Instr} {t : State} (noReset : ResetFree ops)
    (run : runOps ops State.reset = .next t) :
    (lineLog ops State.reset).IsChain (fun older newer => older.1 ≠ newer.1) := by
  rw [lineLog, List.isChain_reverse]
  exact (isChain_ne_of_numbered (numbered_lineLogFrom noReset run)).imp (fun _ _ => Ne.symm)

/-! ## Where a line begins and ends

A line has one `T`, its first byte, and one LF, its last. -/

/-- A line between its `T` and its LF. -/
def lineBody (p o d : U16) : List Byte :=
  charSpace :: (dec p ++ charSpace :: (dec o ++ charSpace :: (dec d ++ [charCR])))

theorem fmt_eq_lineBody (p o d : U16) : fmt p o d = charT :: (lineBody p o d ++ [charLF]) := by
  simp [fmt, lineBody]

theorem notMem_lineBody {b : Byte} (notDigit : b.toNat < 0x30 ∨ 0x39 < b.toNat) (notSpace : b ≠ charSpace)
    (notCR : b ≠ charCR) (p o d : U16) : b ∉ lineBody p o d := by
  simp [lineBody, notMem_dec notDigit, notSpace, notCR]

theorem charLF_notMem_lineBody (p o d : U16) : charLF ∉ lineBody p o d :=
  notMem_lineBody (by decide) (by decide) (by decide) p o d

theorem charT_notMem_lineBody (p o d : U16) : charT ∉ lineBody p o d :=
  notMem_lineBody (by decide) (by decide) (by decide) p o d

theorem count_charLF_fmt (p o d : U16) : (fmt p o d).count charLF = 1 := by
  have body : (lineBody p o d).count charLF = 0 := List.count_eq_zero.mpr (charLF_notMem_lineBody p o d)
  rw [fmt_eq_lineBody, List.count_cons_of_ne (by decide), List.count_append, body]
  rfl

/-- A line that is cut lacks its LF. -/
theorem count_charLF_take_fmt {p o d : U16} {k : Nat} (cut : k < (fmt p o d).length) :
    ((fmt p o d).take k).count charLF = 0 := by
  have front : fmt p o d = (charT :: lineBody p o d) ++ [charLF] := fmt_eq_lineBody p o d
  rw [List.count_eq_zero]
  intro mem
  rw [front, List.length_append, List.length_singleton] at cut
  rw [front, List.take_append_of_le_length (Nat.le_of_lt_succ cut)] at mem
  rcases List.mem_cons.mp (List.mem_of_mem_take mem) with head | body
  · exact absurd head (by decide)
  · exact charLF_notMem_lineBody p o d body

/-- The rest of a line that is cut has its LF. -/
theorem count_charLF_drop_fmt {p o d : U16} {k : Nat} (cut : k < (fmt p o d).length) :
    ((fmt p o d).drop k).count charLF = 1 := by
  have parts := congrArg (List.count charLF) (List.take_append_drop k (fmt p o d))
  rwa [List.count_append, count_charLF_take_fmt cut, count_charLF_fmt, Nat.zero_add] at parts

/-- The rest of a line is a line only where nothing was cut from it. -/
theorem eq_of_fmt_append_eq_drop_append {p o d p' o' d' : U16} {k : Nat} {rest rest' : List Byte}
    (cut : k < (fmt p o d).length) (same : fmt p' o' d' ++ rest' = (fmt p o d).drop k ++ rest) :
    fmt p' o' d' = fmt p o d := by
  cases k with
  | zero =>
    rw [List.drop_zero, fmt_eq_lineBody, fmt_eq_lineBody] at same
    have tails : lineBody p' o' d' ++ charLF :: rest' = lineBody p o d ++ charLF :: rest := by simpa using same
    obtain ⟨bodies, -⟩ := append_cons_inj_of_notMem_fronts (charLF_notMem_lineBody p' o' d')
      (charLF_notMem_lineBody p o d) tails
    rw [fmt_eq_lineBody, fmt_eq_lineBody, bodies]
  | succ k =>
    rw [fmt_eq_lineBody, List.length_cons] at cut
    rw [fmt_eq_lineBody, fmt_eq_lineBody p o d, List.drop_succ_cons] at same
    have nonempty : (lineBody p o d ++ [charLF]).drop k ≠ [] := by
      rw [Ne, List.drop_eq_nil_iff]
      omega
    have mem : charT ∈ (lineBody p o d ++ [charLF]).drop k := by
      obtain ⟨b, tail, drop⟩ := List.exists_cons_of_ne_nil nonempty
      rw [drop, List.cons_append, List.cons_append] at same
      rw [drop, ← List.head_eq_of_cons_eq same]
      exact List.mem_cons_self
    rcases List.mem_append.mp (List.mem_of_mem_drop mem) with body | ending
    · exact absurd body (charT_notMem_lineBody p o d)
    · exact absurd ending (by decide)

/-! ## Whole lines -/

/-- The messages of a record, whole. -/
def wholeLines (log : List (List Byte × Nat)) : List Byte := log.flatMap (fun e => e.1)

@[simp] theorem wholeLines_nil : wholeLines [] = [] := rfl

@[simp] theorem wholeLines_cons (e : List Byte × Nat) (log : List (List Byte × Nat)) :
    wholeLines (e :: log) = e.1 ++ wholeLines log := List.flatMap_cons

theorem sentParts_eq_wholeLines {log : List (List Byte × Nat)} (drained : ∀ e ∈ log, e.1.length ≤ e.2) :
    sentParts log = wholeLines log := by
  induction log with
  | nil => rfl
  | cons e log ih =>
    rw [sentParts_cons, wholeLines_cons, List.take_of_length_le (drained e List.mem_cons_self),
      ih (fun e' mem => drained e' (List.mem_cons_of_mem e mem))]

theorem count_charLF_wholeLines {log : List (List Byte × Nat)} (lines : ∀ e ∈ log, ∃ p o d, e.1 = fmt p o d) :
    (wholeLines log).count charLF = log.length := by
  induction log with
  | nil => rfl
  | cons e log ih =>
    obtain ⟨p, o, d, line⟩ := lines e List.mem_cons_self
    rw [wholeLines_cons, List.count_append, line, count_charLF_fmt,
      ih (fun e' mem => lines e' (List.mem_cons_of_mem e mem)), List.length_cons, Nat.add_comm]

/-- Each line that is cut lacks one LF. -/
theorem count_charLF_sentParts {log : List (List Byte × Nat)} (lines : ∀ e ∈ log, ∃ p o d, e.1 = fmt p o d) :
    (sentParts log).count charLF = log.countP (fun e => decide (e.1.length ≤ e.2)) := by
  induction log with
  | nil => rfl
  | cons e log ih =>
    obtain ⟨p, o, d, line⟩ := lines e List.mem_cons_self
    rw [sentParts_cons, List.count_append, ih (fun e' mem => lines e' (List.mem_cons_of_mem e mem)), List.countP_cons,
      Nat.add_comm]
    by_cases drained : e.1.length ≤ e.2
    · rw [List.take_of_length_le drained, line, count_charLF_fmt, ← line]
      simp [drained]
    · have cut : e.2 < (fmt p o d).length := line ▸ Nat.lt_of_not_le drained
      rw [line, count_charLF_take_fmt cut, ← line]
      simp [drained]

/-- With an LF for each of its lines, a record has no line that was cut. -/
theorem drained_of_length_le_count {log : List (List Byte × Nat)} (lines : ∀ e ∈ log, ∃ p o d, e.1 = fmt p o d)
    (enough : log.length ≤ (sentParts log).count charLF) : ∀ e ∈ log, e.1.length ≤ e.2 := by
  rw [count_charLF_sentParts lines] at enough
  simpa using List.countP_eq_length.mp (Nat.le_antisymm List.countP_le_length enough)

/-- What follows a cut line is not its rest and the whole lines behind it: by the number of LFs it would be whole lines
only, and the first of them would be the cut line itself. -/
theorem sentParts_ne_drop_append {e last : List Byte × Nat} {es : List (List Byte × Nat)} {part : List Byte}
    (lines : ∀ e' ∈ e :: (es ++ [last]), ∃ p o d, e'.1 = fmt p o d)
    (chain : (e :: (es ++ [last])).IsChain (fun older newer => older.1 ≠ newer.1)) (cut : e.2 < e.1.length) :
    sentParts (es ++ [last]) ≠ e.1.drop e.2 ++ (wholeLines es ++ part) := by
  intro behind
  obtain ⟨p, o, d, line⟩ := lines e List.mem_cons_self
  have restLines : ∀ e' ∈ es ++ [last], ∃ p o d, e'.1 = fmt p o d := fun e' mem => lines e' (List.mem_cons_of_mem e mem)
  have esLines : ∀ e' ∈ es, ∃ p o d, e'.1 = fmt p o d := fun e' mem => restLines e' (List.mem_append_left [last] mem)
  rw [line] at cut behind
  have enough : (es ++ [last]).length ≤ (sentParts (es ++ [last])).count charLF := by
    rw [behind, List.count_append, List.count_append, count_charLF_drop_fmt cut, count_charLF_wholeLines esLines,
      List.length_append, List.length_singleton]
    omega
  rw [sentParts_eq_wholeLines (drained_of_length_le_count restLines enough)] at behind
  obtain ⟨next, others, split⟩ :=
    List.exists_cons_of_ne_nil (List.append_ne_nil_of_right_ne_nil es (List.cons_ne_nil last []))
  obtain ⟨p', o', d', line'⟩ := restLines next (split ▸ List.mem_cons_self)
  rw [split, wholeLines_cons, line'] at behind
  rw [split] at chain
  exact chain.rel (line.trans ((eq_of_fmt_append_eq_drop_append cut behind).symm.trans line'.symm))

/-- The heart of R221: where the sent parts are whole lines, no line but the last was cut. -/
theorem drained_of_sentParts_eq {earlier : List (List Byte × Nat)} {last : List Byte × Nat} {part : List Byte}
    (lines : ∀ e ∈ earlier ++ [last], ∃ p o d, e.1 = fmt p o d)
    (chain : (earlier ++ [last]).IsChain (fun older newer => older.1 ≠ newer.1))
    (same : sentParts (earlier ++ [last]) = wholeLines earlier ++ part) : ∀ e ∈ earlier, e.1.length ≤ e.2 := by
  induction earlier with
  | nil => exact fun _ mem => absurd mem List.not_mem_nil
  | cons e es ih =>
    rw [List.cons_append, sentParts_cons, wholeLines_cons, List.append_assoc] at same
    by_cases drained : e.1.length ≤ e.2
    · rw [List.take_of_length_le drained, List.append_cancel_left_eq] at same
      rintro e' (_ | ⟨_, mem⟩)
      · exact drained
      · exact ih (fun e' mem => lines e' (List.mem_cons_of_mem e mem)) chain.tail same e' mem
    · have behind : sentParts (es ++ [last]) = e.1.drop e.2 ++ (wholeLines es ++ part) := by
        refine List.append_cancel_left (as := e.1.take e.2) ?_
        rw [same, ← List.append_assoc (e.1.take e.2), List.take_append_drop]
      exact absurd behind (sentParts_ne_drop_append lines chain (Nat.lt_of_not_le drained))

/-- Settles O49: drained messages are sent whole, and whole lines come from drained messages only. -/
theorem wholeLinesExactlyWhenEveryMessageDrains : Obligations.WholeLinesExactlyWhenEveryMessageDrains := by
  unfold Obligations.WholeLinesExactlyWhenEveryMessageDrains
  intro ops t earlier last noReset run record
  have wire := wire_eq_sentParts noReset run
  have lines := line_of_mem_lineLog noReset run
  have chain := isChain_ne_lineLog noReset run
  rw [record] at wire lines chain
  constructor
  · rintro ⟨part, -, whole⟩
    exact drained_of_sentParts_eq lines chain (wire.symm.trans whole)
  · intro drained
    refine ⟨last.1.take last.2, ⟨_, List.take_append_drop last.2 last.1⟩, ?_⟩
    rw [wire, sentParts_append_singleton, sentParts_eq_wholeLines drained]
    rfl

/-! ## A line cut on the wire -/

/-- Settles O50: the run PC, evaluated on the model. -/
theorem aFastSecondEdgeCutsALineOnTheWire : Obligations.AFastSecondEdgeCutsALineOnTheWire := by
  unfold Obligations.AFastSecondEdgeCutsALineOnTheWire
  exact ⟨_, rfl, rfl, rfl, rfl, rfl, rfl, rfl, rfl, rfl⟩

end Sys2Proof.Proofs

/-! PROOFS. The counter, the two services and the reports (40_capture_timer.md, 41_interval_tracker.md, and the hazards
H2, H3 and H5 of 70_reset_and_hazards.md).

A report measures an interval because `ticksCounted` moves by one with each tick and stays under an overflow service, as
long as no wrap is lost. -/

namespace Sys2Proof.Proofs

open Sys2Proof.Machine Sys2Proof.Safety

/-! ## Single operations -/

/-- Settles O12: the closed form of the ticks of a run. -/
theorem ticksAddUp : Obligations.TicksAddUp := by
  unfold Obligations.TicksAddUp
  exact fun n s =>
    ⟨ticked n s, runOps_ticks n s, ticked_tickCounter_toNat n s, ticked_ovfPending_iff, rfl, fun _ => rfl⟩

/-- Settles O14: the four pairs of levels. -/
theorem onlyFallingTransitionsAreEvents : Obligations.OnlyFallingTransitionsAreEvents := by
  unfold Obligations.OnlyFallingTransitionsAreEvents
  intro before after
  cases before <;> cases after <;> rfl

theorem exec_svcEdge_refused_iff {s : State} : exec .svcEdge s = .refused .edgeNotPending ↔ s.edgePending = false := by
  constructor
  · intro refused
    by_contra pending
    obtain ⟨t, served⟩ := svcEdge_completes (Bool.not_eq_false _ ▸ pending)
    cases refused.symm.trans served
  · intro idle
    exact if_neg (by simp [svcEdgeEnabled, idle])

theorem exec_svcOvf_refused_iff {s : State} :
    exec .svcOvf s = .refused .overflowNotServiceable ↔ s.ovfPending = false ∨ s.edgePending = true := by
  have guard_false : svcOvfEnabled s = false ↔ s.ovfPending = false ∨ s.edgePending = true := by
    rw [← Bool.not_eq_true, svcOvfEnabled_eq_true, not_and_or, Bool.not_eq_true, Bool.not_eq_false]
  rw [← guard_false]
  cases guard : svcOvfEnabled s with
  | false => exact ⟨fun _ => rfl, fun _ => if_neg (by simp [guard])⟩
  | true =>
    obtain ⟨pending, noEdge⟩ := svcOvfEnabled_eq_true.mp guard
    rw [exec_svcOvf_of_enabled pending noEdge]
    simp

/-- Settles O21, by the guards. -/
theorem servicesOutsideTheirGuardsAreRefused : Obligations.ServicesOutsideTheirGuardsAreRefused := by
  unfold Obligations.ServicesOutsideTheirGuardsAreRefused
  exact ⟨fun _ => exec_svcEdge_refused_iff, fun _ => exec_svcOvf_refused_iff⟩

/-- Settles O10: both guards are false in the reset state, and the Transmitter is disarmed. -/
theorem afterResetNothingIsPendingOrArmed : Obligations.AfterResetNothingIsPendingOrArmed := by
  unfold Obligations.AfterResetNothingIsPendingOrArmed
  intro s t h
  obtain rfl : resetBlock s = t := Host.Outcome.next.inj h
  exact ⟨exec_svcEdge_refused_iff.mpr rfl, exec_svcOvf_refused_iff.mpr (.inl rfl), exec_txrdy_resetBlock s, rfl⟩

/-! ## The delta -/

/-- Settles O23: each branch computed; the worked example is run on the model. -/
theorem deltaIsOneShortInTheWrapBranch : Obligations.DeltaIsOneShortInTheWrapBranch := by
  unfold Obligations.DeltaIsOneShortInTheWrapBranch
  refine ⟨fun tick prev noWrap => ?_, fun tick prev wraps => ?_, by decide, by decide⟩
  · apply BitVec.eq_of_toNat_eq
    rw [deltaOf_toNat_of_not_lt (Nat.not_lt.mpr noWrap)]
    bv_omega
  · have delta := deltaOf_toNat_of_lt wraps
    refine ⟨?_, by omega⟩
    apply BitVec.eq_of_toNat_eq
    rw [delta]
    bv_omega

/-! ## The handlers applied directly -/

theorem handleEvents_cons_of_next {e : SourceEvent} {s t : State} (first : handleEvent e s = .next t)
    (es : List SourceEvent) : handleEvents (e :: es) s = handleEvents es t := by
  rw [handleEvents, first]
  rfl

theorem handleEvents_overflow_cons (es : List SourceEvent) (s : State) :
    handleEvents (.overflow :: es) s = handleEvents es (hOvf s) :=
  handleEvents_cons_of_next rfl es

/-- `n` delivered Overflows in closed form. -/
theorem handleEvents_overflows (n : Nat) (s : State) :
    handleEvents (List.replicate n .overflow) s = .next (s.setOverflowCount (s.overflowCount + BitVec.ofNat 16 n)) := by
  induction n generalizing s with
  | zero => simp [handleEvents, State.setOverflowCount]
  | succ n ih =>
    rw [List.replicate_succ, handleEvents_overflow_cons, ih, Nat.add_comm n 1, BitVec.ofNat_add]
    simp [hOvf, State.setOverflowCount, BitVec.add_assoc]

/-- The arithmetic of the reconstruction law (41_interval_tracker.md section 3), in the else branch: where `prevTick`
and the elapsed count add up to the overflow count and the tick, the report gives the elapsed count. -/
theorem edgeReport_elapsed_of_not_lt {tick : U16} {s : State} {elapsed : Nat}
    (total : s.prevTick.toNat + elapsed = s.overflowCount.toNat * 0x10000 + tick.toNat)
    (noWrap : ¬ tick.toNat < s.prevTick.toNat) :
    (edgeReport tick s).overflowCount.toNat * 0x10000 + (edgeReport tick s).delta.toNat = elapsed := by
  have delta : (edgeReport tick s).delta.toNat = tick.toNat - s.prevTick.toNat := deltaOf_toNat_of_not_lt noWrap
  rw [edgeReport_overflowCount_of_not_lt noWrap, delta]
  omega

/-- In the wrap branch it gives one less. -/
theorem edgeReport_elapsed_of_lt {tick : U16} {s : State} {elapsed : Nat}
    (total : s.prevTick.toNat + elapsed = s.overflowCount.toNat * 0x10000 + tick.toNat)
    (wraps : tick.toNat < s.prevTick.toNat) :
    (edgeReport tick s).overflowCount.toNat * 0x10000 + (edgeReport tick s).delta.toNat + 1 = elapsed := by
  have delta : (edgeReport tick s).delta.toNat = 0xFFFF - (s.prevTick.toNat - tick.toNat) := deltaOf_toNat_of_lt wraps
  have count : (s.overflowCount - 1#16).toNat = s.overflowCount.toNat - 1 := by bv_omega
  rw [edgeReport_overflowCount_of_lt wraps, delta, count]
  omega

/-- Settles O25: the count after `n` Overflows is `n`, and the report is computed from it in each branch. -/
theorem reportsReconstructElapsedTicks : Obligations.ReportsReconstructElapsedTicks := by
  unfold Obligations.ReportsReconstructElapsedTicks
  intro n tick s zero small
  obtain ⟨t, handled, prevTick, delivered⟩ : ∃ t, handleEvents (List.replicate n .overflow) s = .next t ∧
      t.prevTick = s.prevTick ∧ t.overflowCount.toNat = n :=
    ⟨_, handleEvents_overflows n s, rfl, by simpa [zero] using Nat.lt_succ_of_le small⟩
  have total (within : s.prevTick.toNat ≤ n * 0x10000 + tick.toNat) :
      t.prevTick.toNat + (n * 0x10000 + tick.toNat - s.prevTick.toNat) =
        t.overflowCount.toNat * 0x10000 + tick.toNat := by
    rw [prevTick, delivered, Nat.add_sub_of_le within]
  refine ⟨t, handled, prevTick, fun noWrap => ?_, fun wraps positive => ?_⟩
  · have notLess : ¬ tick.toNat < t.prevTick.toNat := by rwa [prevTick, Nat.not_lt]
    have count : (edgeReport tick t).overflowCount.toNat = n := by
      rw [edgeReport_overflowCount_of_not_lt notLess, delivered]
    have within : s.prevTick.toNat ≤ n * 0x10000 + tick.toNat := by omega
    exact ⟨count, by rw [edgeReport_elapsed_of_not_lt (total within) notLess, Nat.sub_add_cancel within]⟩
  · have less : tick.toNat < t.prevTick.toNat := by rwa [prevTick]
    have count : (edgeReport tick t).overflowCount.toNat = n - 1 := by
      rw [edgeReport_overflowCount_of_lt less]
      bv_omega
    have within : s.prevTick.toNat ≤ n * 0x10000 + tick.toNat := by omega
    exact ⟨count, by rw [Nat.add_right_comm, edgeReport_elapsed_of_lt (total within) less, Nat.sub_add_cancel within]⟩

/-- Settles O31: two Overflows and the handler of the edge; the line is run on the formatter. -/
theorem scenarioALoadsItsLine : Obligations.ScenarioALoadsItsLine := by
  unfold Obligations.ScenarioALoadsItsLine
  intro s canonical pulses overflows prevTick
  obtain ⟨t, handled⟩ := hEdge_completes 50#16 (hOvf (hOvf s))
  have run : handleEvents [.overflow, .overflow, .edge 50#16] s = .next t := by
    rw [handleEvents_overflow_cons, handleEvents_overflow_cons, handleEvents_cons_of_next (e := .edge 50#16) handled]
    rfl
  have holds := holdsMessage_of_hEdge (s := hOvf (hOvf s)) canonical handled
  have report : edgeReport 50#16 (hOvf (hOvf s)) = ⟨1#16, 1#16, 65485#16⟩ := by
    simp [edgeReport, hOvf, pulses, overflows, prevTick]
    decide
  rw [report] at holds
  obtain ⟨m, -, rfl⟩ := hEdge_eq_next.mp handled
  refine ⟨_, run, holds, ?_, rfl, rfl⟩
  simp [edgeHandled, hOvf, pulses]

/-! ## The two services in a row -/

/-- With both events pending, `SVC_EDGE` and then `SVC_OVF`, in full but for the buffer. -/
theorem runOps_svcEdge_svcOvf {s : State} (canonical : BufferInv s) (edge : s.edgePending = true)
    (overflow : s.ovfPending = true) :
    ∃ m, runOps [.svcEdge, .svcOvf] s = .next (hOvf (edgeServed m s).acceptOverflow) ∧
      HoldsMessage (hOvf (edgeServed m s).acceptOverflow) (serviceMessage s) := by
  obtain ⟨t, served⟩ := svcEdge_completes edge
  have holds := holdsMessage_of_svcEdge canonical served
  obtain ⟨-, m, -, rfl⟩ := exec_svcEdge_eq_next.mp served
  have counted : exec .svcOvf (edgeServed m s) = .next (hOvf (edgeServed m s).acceptOverflow) :=
    exec_svcOvf_of_enabled overflow rfl
  exact ⟨m, (runOps_cons_of_next served).trans (runOps_singleton_of_next counted), holds⟩

/-- Settles O29: the report is made before the Overflow is counted, and the count starts from the 0 of step 6. -/
theorem pendingOverflowIsCountedOneIntervalLate : Obligations.PendingOverflowIsCountedOneIntervalLate := by
  unfold Obligations.PendingOverflowIsCountedOneIntervalLate
  intro s canonical edge overflow
  obtain ⟨m, run, holds⟩ := runOps_svcEdge_svcOvf canonical edge overflow
  refine ⟨_, s.pulses + 1#16, (edgeReport s.captureLatch s).overflowCount, deltaOf s.captureLatch s.prevTick, run,
    rfl, ?_, rfl, holds, rfl, rfl, rfl⟩
  split
  next wraps => exact edgeReport_overflowCount_of_lt wraps
  next noWrap => exact edgeReport_overflowCount_of_not_lt noWrap

/-- Settles O30: the latch holds 0xFFFF, which no `prevTick` exceeds, so the report takes the else branch; the wrap of
the tick after the capture is what `SVC_OVF` counts. -/
theorem edgeJustBeforeAWrapBelongsToTheOldCycle : Obligations.EdgeJustBeforeAWrapBelongsToTheOldCycle := by
  unfold Obligations.EdgeJustBeforeAWrapBelongsToTheOldCycle
  intro s canonical top
  have wrapped : (ticked 1 s.captureEdge).ovfPending = true := ticked_ovfPending_iff.mpr (.inr (by simp [top]))
  obtain ⟨m, services, holds⟩ := runOps_svcEdge_svcOvf (s := ticked 1 s.captureEdge) canonical rfl wrapped
  have run : runOps [.fall, .tick, .svcEdge, .svcOvf] s =
      .next (hOvf (edgeServed m (ticked 1 s.captureEdge)).acceptOverflow) := by
    rw [runOps_cons_of_next (exec_fall s), runOps_cons_of_next (exec_tick _), services]
  have noWrap : ¬ s.tickCounter.toNat < s.prevTick.toNat := by
    rw [top]
    exact Nat.not_lt.mpr (Nat.le_of_lt_succ s.prevTick.isLt)
  have count : (edgeReport s.tickCounter s).overflowCount = s.overflowCount := edgeReport_overflowCount_of_not_lt noWrap
  have delta : deltaOf s.tickCounter s.prevTick = 0xFFFF#16 - s.prevTick := by
    rw [deltaOf, wrapBranch_eq_false.mpr noWrap, if_neg Bool.false_ne_true, top]
  have message : serviceMessage (ticked 1 s.captureEdge) =
      fmt (s.pulses + 1#16) s.overflowCount (0xFFFF#16 - s.prevTick) := by
    rw [← count, ← delta]
    rfl
  rw [message] at holds
  have counter : (ticked 1 s.captureEdge).tickCounter = 0x0000#16 := by simp [ticked, top]
  exact ⟨_, run, holds, top, counter, rfl⟩

end Sys2Proof.Proofs

/-! PROOFS. The interval between two captures over the real counter (41_interval_tracker.md section 3, hazards H3 and
H5).

What a report measures is `ticksCounted`: the wraps counted and the wrap still pending, with the counter. A tick that
loses no wrap adds one to it, and an overflow service leaves it, so over a run it moves by the number of ticks. -/

namespace Sys2Proof.Proofs

open Sys2Proof.Machine Sys2Proof.Safety

/-! ## Runs of ticks, overflow services and transmit-ready events -/

/-- An operation that neither captures nor services an edge, nor resets. -/
abbrev BetweenEdges (i : Instr) : Prop := i = .tick ∨ i = .svcOvf ∨ i = .txrdy

theorem runOps_append_eq_next {as bs : List Instr} {s t : State} :
    runOps (as ++ bs) s = .next t ↔ ∃ u, runOps as s = .next u ∧ runOps bs u = .next t := by
  induction as generalizing s with
  | nil => simp [runOps]
  | cons a as ih =>
    simp only [List.cons_append, runOps_cons_eq_next, ih]
    constructor
    · rintro ⟨v, first, u, front, back⟩
      exact ⟨u, ⟨v, first, front⟩, back⟩
    · rintro ⟨u, ⟨v, first, front⟩, back⟩
      exact ⟨v, first, u, front, back⟩

theorem noOverrun_cons {i : Instr} {is : List Instr} {s u : State} (first : exec i s = .next u) :
    noOverrun (i :: is) s = true ↔ overruns i s = false ∧ noOverrun is u = true := by
  simp [noOverrun, first]

theorem noOverrun_append {as bs : List Instr} {s u : State} (front : runOps as s = .next u) :
    noOverrun (as ++ bs) s = true ↔ noOverrun as s = true ∧ noOverrun bs u = true := by
  induction as generalizing s with
  | nil =>
    obtain rfl : s = u := Host.Outcome.next.inj front
    simp [noOverrun]
  | cons a as ih =>
    obtain ⟨v, first, rest⟩ := runOps_cons_eq_next.mp front
    rw [List.cons_append, noOverrun_cons first, noOverrun_cons first, ih rest, and_assoc]

/-- A relation of two states that every operation of a run has, the run has. -/
theorem runOps_relates {R : State → State → Prop} (refl : ∀ s, R s s) (trans : ∀ {s t u}, R s t → R t u → R s u)
    {ops : List Instr} (each : ∀ i ∈ ops, ∀ {s t}, exec i s = .next t → R s t) {s t : State}
    (run : runOps ops s = .next t) : R s t := by
  induction ops generalizing s with
  | nil =>
    obtain rfl : s = t := Host.Outcome.next.inj run
    exact refl s
  | cons i is ih =>
    obtain ⟨u, first, rest⟩ := runOps_cons_eq_next.mp run
    exact trans (each i List.mem_cons_self first) (ih (fun j mem => each j (List.mem_cons_of_mem i mem)) rest)

/-! ## What lies between two edges leaves the tracker -/

/-- The latch and the tracker's registers are the same, but for the overflow count, which is the same while an Edge is
pending. -/
structure SameTracker (s t : State) : Prop where
  captureLatch : t.captureLatch = s.captureLatch
  edgePending : t.edgePending = s.edgePending
  pulses : t.pulses = s.pulses
  prevTick : t.prevTick = s.prevTick
  overflowCount : s.edgePending = true → t.overflowCount = s.overflowCount

theorem sameTracker_refl (s : State) : SameTracker s s := ⟨rfl, rfl, rfl, rfl, fun _ => rfl⟩

theorem sameTracker_trans {s t u : State} (first : SameTracker s t) (second : SameTracker t u) : SameTracker s u where
  captureLatch := second.captureLatch.trans first.captureLatch
  edgePending := second.edgePending.trans first.edgePending
  pulses := second.pulses.trans first.pulses
  prevTick := second.prevTick.trans first.prevTick
  overflowCount := fun pending =>
    (second.overflowCount (first.edgePending.trans pending)).trans (first.overflowCount pending)

theorem sameTracker_of_exec {i : Instr} {s t : State} (between : BetweenEdges i) (h : exec i s = .next t) :
    SameTracker s t := by
  cases exec_eq_next.mp h with
  | reset | fall | svcEdge => simp [BetweenEdges] at between
  | tick | dropped | disarms | sends => exact ⟨rfl, rfl, rfl, rfl, fun _ => rfl⟩
  | svcOvf pending noEdge => exact ⟨rfl, rfl, rfl, rfl, fun edge => absurd (noEdge.symm.trans edge) (by decide)⟩

theorem sameTracker_of_runOps {ops : List Instr} {s t : State} (between : ∀ i ∈ ops, BetweenEdges i)
    (run : runOps ops s = .next t) : SameTracker s t :=
  runOps_relates sameTracker_refl sameTracker_trans (fun i mem _ _ h => sameTracker_of_exec (between i mem) h) run

/-! ## The ticks counted -/

/-- The wraps counted and the wrap pending, with the counter, as one number of ticks. -/
def ticksCounted (s : State) : Nat :=
  (s.overflowCount.toNat + s.ovfPending.toNat) * 0x10000 + s.tickCounter.toNat

/-- A tick adds one: a wrap goes from the counter to the pending flag, which is free for it. -/
theorem ticksCounted_ticked {s : State} (kept : overruns .tick s = false) :
    ticksCounted (ticked 1 s) = ticksCounted s + 1 := by
  have counter := ticked_tickCounter_toNat 1 s
  have count : (ticked 1 s).overflowCount = s.overflowCount := rfl
  by_cases top : s.tickCounter.toNat = 0xFFFF
  · have atTop : counterAtTop s = true := by simpa [counterAtTop] using BitVec.eq_of_toNat_eq (y := 0xFFFF#16) top
    have free : s.ovfPending = false := by simpa [overruns, atTop] using kept
    have wrapped : (ticked 1 s).ovfPending = true := ticked_ovfPending_iff.mpr (.inr (by omega))
    simp only [ticksCounted, counter, count, free, wrapped, top, Bool.toNat_true, Bool.toNat_false]
    omega
  · have pending : (ticked 1 s).ovfPending = s.ovfPending := by
      have below : ¬ 0x10000 ≤ s.tickCounter.toNat + 1 := by omega
      rw [Bool.eq_iff_iff, ticked_ovfPending_iff, or_iff_left below]
    simp only [ticksCounted, counter, count, pending]
    omega

/-- A service moves the pending wrap to the count, which is a register of 16 bits. -/
theorem ticksCounted_hOvf {s : State} (pending : s.ovfPending = true) :
    ticksCounted (hOvf s.acceptOverflow) ≡ ticksCounted s [MOD 0x100000000] := by
  have count : (hOvf s.acceptOverflow).overflowCount.toNat = (s.overflowCount.toNat + 1) % 0x10000 :=
    hOvf_overflowCount_toNat _
  have free : (hOvf s.acceptOverflow).ovfPending = false := rfl
  have counter : (hOvf s.acceptOverflow).tickCounter = s.tickCounter := rfl
  simp only [Nat.ModEq, ticksCounted, count, free, counter, pending, Bool.toNat_true, Bool.toNat_false]
  omega

theorem ticksCounted_disarm (s : State) : ticksCounted s.disarm = ticksCounted s := by simp [ticksCounted]

theorem ticksCounted_send_advanceCursor (s : State) (b : Byte) :
    ticksCounted (s.send b).advanceCursor = ticksCounted s := by
  simp [ticksCounted]

theorem ticksCounted_of_exec {i : Instr} {s t : State} (between : BetweenEdges i) (h : exec i s = .next t)
    (kept : overruns i s = false) : ticksCounted t ≡ ticksCounted s + countOp .tick [i] [MOD 0x100000000] := by
  have one_tick : countOp .tick [.tick] = 1 := rfl
  have no_tick_svcOvf : countOp .tick [.svcOvf] = 0 := rfl
  have no_tick_txrdy : countOp .tick [.txrdy] = 0 := rfl
  cases exec_eq_next.mp h with
  | reset | fall | svcEdge => simp [BetweenEdges] at between
  | tick => rw [one_tick, ticksCounted_ticked kept]
  | svcOvf pending =>
    rw [no_tick_svcOvf, Nat.add_zero]
    exact ticksCounted_hOvf pending
  | dropped => rw [no_tick_txrdy, Nat.add_zero]
  | disarms => rw [no_tick_txrdy, Nat.add_zero, ticksCounted_disarm]
  | sends => rw [no_tick_txrdy, Nat.add_zero, ticksCounted_send_advanceCursor]

theorem ticksCounted_of_runOps {ops : List Instr} {s t : State} (between : ∀ i ∈ ops, BetweenEdges i)
    (kept : noOverrun ops s = true) (run : runOps ops s = .next t) :
    ticksCounted t ≡ ticksCounted s + countOp .tick ops [MOD 0x100000000] := by
  induction ops generalizing s with
  | nil =>
    obtain rfl : s = t := Host.Outcome.next.inj run
    rw [show countOp .tick [] = 0 from rfl, Nat.add_zero]
  | cons i is ih =>
    obtain ⟨u, first, rest⟩ := runOps_cons_eq_next.mp run
    obtain ⟨keptFirst, keptRest⟩ := (noOverrun_cons first).mp kept
    have step := ticksCounted_of_exec (between i List.mem_cons_self) first keptFirst
    have tail := ih (fun j mem => between j (List.mem_cons_of_mem i mem)) keptRest rest
    rw [countOp_cons, ← Nat.add_assoc]
    exact tail.trans (step.add_right _)

/-- With no wrap pending, the count and the counter are less than 2^32, so below that bound nothing was rounded off. -/
theorem ticksCounted_eq_of_modEq {s : State} {n : Nat} (noWrap : s.ovfPending = false)
    (same : ticksCounted s ≡ n [MOD 0x100000000]) (small : n < 0x100000000) :
    s.overflowCount.toNat * 0x10000 + s.tickCounter.toNat = n := by
  simp only [Nat.ModEq, ticksCounted, noWrap, Bool.toNat_false] at same
  omega

/-! ## From a serviced edge to the next report -/

theorem edgeReport_of_sameTracker {tick : U16} {s t : State} (same : SameTracker s t) (pending : s.edgePending = true) :
    edgeReport tick t = edgeReport tick s := by
  rw [edgeReport, edgeReport, same.pulses, same.prevTick, same.overflowCount pending]

/-- An edge captured in `t` is reported from the tracker as it is in `t`, however late the service. -/
theorem holdsMessage_of_captured {late : List Instr} {t t1 v : State} (canonical : BufferInv t)
    (between : ∀ i ∈ late, BetweenEdges i) (captured : exec .fall t = .next t1) (run : runOps late t1 = .next v) :
    ∃ u, exec .svcEdge v = .next u ∧ HoldsMessage u (fmtReport (edgeReport t.tickCounter t)) := by
  obtain rfl : t.captureEdge = t1 := Host.Outcome.next.inj captured
  have same := sameTracker_of_runOps between run
  have canonical' : BufferInv v := runOps_keeps exec_keeps_bufferInv run (s := t.captureEdge) canonical
  obtain ⟨u, served⟩ := svcEdge_completes (s := v) same.edgePending
  have message : serviceMessage v = fmtReport (edgeReport t.tickCounter t) :=
    calc serviceMessage v = fmtReport (edgeReport v.captureLatch v) := rfl
      _ = fmtReport (edgeReport t.tickCounter t.captureEdge) := by
        rw [edgeReport_of_sameTracker same rfl, same.captureLatch, State.captureEdge_captureLatch]
      _ = fmtReport (edgeReport t.tickCounter t) := rfl
  exact ⟨u, served, message ▸ holdsMessage_of_svcEdge canonical' served⟩

/-- From the service of one edge, `k` ticks after its capture, to the capture of the next: what the tracker has counted
since the first capture. -/
theorem elapsed_of_serviced {k : Nat} {ops : List Instr} {s t : State} (zero : s.overflowCount = 0x0000#16)
    (start : s.prevTick.toNat + k = s.ovfPending.toNat * 0x10000 + s.tickCounter.toNat)
    (between : ∀ i ∈ ops, BetweenEdges i) (kept : noOverrun ops s = true) (run : runOps ops s = .next t)
    (noWrap : t.ovfPending = false) (small : s.prevTick.toNat + (k + countOp .tick ops) < 0x100000000) :
    t.prevTick.toNat + (k + countOp .tick ops) = t.overflowCount.toNat * 0x10000 + t.tickCounter.toNat := by
  have counted := ticksCounted_of_runOps between kept run
  have begun : ticksCounted s = s.prevTick.toNat + k := by
    rw [ticksCounted, zero, start, BitVec.toNat_ofNat, Nat.zero_mod, Nat.zero_add]
  rw [begun, Nat.add_assoc] at counted
  rw [ticksCounted_eq_of_modEq noWrap counted small, (sameTracker_of_runOps between run).prevTick]

/-- The conclusion of the reconstruction law, from the count at the capture. -/
theorem report_of_elapsed {elapsed : Nat} {t u : State} {prev : U16}
    (holds : HoldsMessage u (fmtReport (edgeReport t.tickCounter t))) (prevTick : t.prevTick = prev)
    (total : t.prevTick.toNat + elapsed = t.overflowCount.toNat * 0x10000 + t.tickCounter.toNat) :
    ∃ o d : U16, HoldsMessage u (fmt (t.pulses + 1#16) o d) ∧
      if prev.toNat ≤ t.tickCounter.toNat then o.toNat * 0x10000 + d.toNat = elapsed
      else o.toNat * 0x10000 + d.toNat + 1 = elapsed := by
  subst prevTick
  refine ⟨(edgeReport t.tickCounter t).overflowCount, (edgeReport t.tickCounter t).delta, holds, ?_⟩
  split
  next noWrap => exact edgeReport_elapsed_of_not_lt total (Nat.not_lt.mpr noWrap)
  next wraps => exact edgeReport_elapsed_of_lt total (Nat.lt_of_not_le wraps)

/-- Settles O26: the ticks counted from the first capture to the second are the elapsed ticks, and what comes after the
second capture does not enter its report. -/
theorem intervalsBetweenEdgesAreReportedToOneTick : Obligations.IntervalsBetweenEdgesAreReportedToOneTick := by
  unfold Obligations.IntervalsBetweenEdgesAreReportedToOneTick
  intro k s t t1 v ops late canonical _ zero start between kept run noWrap captured lateRun small
  rw [List.forall_mem_append] at between
  obtain ⟨betweenOps, betweenLate⟩ := between
  have same := sameTracker_of_runOps betweenOps run
  have start' : s.prevTick.toNat + k = s.ovfPending.toNat * 0x10000 + s.tickCounter.toNat := by
    cases pending : s.ovfPending <;> simp [pending] at start ⊢ <;> omega
  have total := elapsed_of_serviced zero start' betweenOps kept run noWrap small
  obtain ⟨u, served, holds⟩ :=
    holdsMessage_of_captured (runOps_keeps exec_keeps_bufferInv run canonical) betweenLate captured lateRun
  obtain ⟨o, d, message, report⟩ := report_of_elapsed holds same.prevTick total
  exact ⟨u, o, d, served, same.pulses ▸ message, report⟩

/-- Settles O27: at reset the count stands as after an edge captured at tick 0 and serviced at once, and no tick is less
than 0. -/
theorem firstReportCountsTicksSinceReset : Obligations.FirstReportCountsTicksSinceReset := by
  unfold Obligations.FirstReportCountsTicksSinceReset
  intro ops late t t1 v between kept run noWrap captured lateRun small
  rw [List.forall_mem_append] at between
  obtain ⟨betweenOps, betweenLate⟩ := between
  have same := sameTracker_of_runOps betweenOps run
  have prevTick : t.prevTick.toNat = 0 := congrArg BitVec.toNat same.prevTick
  have notLess : ¬ t.tickCounter.toNat < t.prevTick.toNat := by omega
  have total := elapsed_of_serviced (k := 0) rfl rfl betweenOps kept run noWrap (by simpa [State.reset] using small)
  rw [Nat.zero_add] at total
  obtain ⟨u, served, holds⟩ :=
    holdsMessage_of_captured (runOps_keeps exec_keeps_bufferInv run reset_buf_wf) betweenLate captured lateRun
  have pulses : (edgeReport t.tickCounter t).pulses = 1#16 := by
    rw [edgeReport, same.pulses]
    rfl
  have delta : (edgeReport t.tickCounter t).delta = t.tickCounter :=
    BitVec.eq_of_toNat_eq ((deltaOf_toNat_of_not_lt notLess).trans (by rw [prevTick, Nat.sub_zero]))
  rw [fmtReport, pulses] at holds
  exact ⟨u, _, _, served, holds, edgeReport_elapsed_of_not_lt total notLess, delta⟩

/-! ## From capture to capture -/

/-- A capture serviced after any run `a`: the tracker starts the next interval at the capture, with the ticks of `a`
already in the counter and the pending flag. -/
theorem start_of_captured {a : List Instr} {s s1 w w1 : State} (captured : exec .fall s = .next s1)
    (between : ∀ i ∈ a, BetweenEdges i) (kept : noOverrun a s1 = true) (run : runOps a s1 = .next w)
    (served : exec .svcEdge w = .next w1) (noWrap : s.ovfPending = false)
    (small : s.tickCounter.toNat + countOp .tick a < 0x100000000) :
    w1.prevTick = s.tickCounter ∧ w1.overflowCount = 0x0000#16 ∧ w1.pulses = s.pulses + 1#16 ∧
      s.tickCounter.toNat + countOp .tick a = w1.ovfPending.toNat * 0x10000 + w1.tickCounter.toNat := by
  obtain rfl : s.captureEdge = s1 := Host.Outcome.next.inj captured
  have same := sameTracker_of_runOps between run
  have counted := ticksCounted_of_runOps between kept run
  have count : w.overflowCount = s.overflowCount := same.overflowCount rfl
  obtain ⟨-, m, -, rfl⟩ := exec_svcEdge_eq_next.mp served
  refine ⟨same.captureLatch, rfl, congrArg (· + 1#16) same.pulses, ?_⟩
  change _ = w.ovfPending.toNat * 0x10000 + w.tickCounter.toNat
  have flag : w.ovfPending.toNat ≤ 1 := Bool.toNat_le w.ovfPending
  simp only [Nat.ModEq, ticksCounted, count, State.captureEdge_overflowCount, State.captureEdge_ovfPending,
    State.captureEdge_tickCounter, noWrap, Bool.toNat_false] at counted
  omega

/-- Settles O60: the first service starts the interval at the first capture, and from there it is the law from a
serviced edge to the next report. -/
theorem reportsMeasureFromCaptureToCapture : Obligations.ReportsMeasureFromCaptureToCapture := by
  unfold Obligations.ReportsMeasureFromCaptureToCapture
  intro s s1 t t1 v a b c canonical between captured run captured' lateRun kept noWrap noWrap' small
  simp only [List.forall_mem_append] at between
  obtain ⟨⟨betweenA, betweenB⟩, betweenC⟩ := between
  obtain ⟨w, runA, rest⟩ := runOps_append_eq_next.mp run
  obtain ⟨w1, served, runB⟩ := runOps_cons_eq_next.mp rest
  obtain ⟨keptA, keptRest⟩ := (noOverrun_append runA).mp kept
  obtain ⟨-, keptB⟩ := (noOverrun_cons served).mp keptRest
  have ticks : countOp .tick (a ++ b) = countOp .tick a + countOp .tick b := List.count_append
  rw [ticks] at small ⊢
  obtain ⟨prevTick, zero, pulses, start⟩ :=
    start_of_captured captured betweenA keptA runA served noWrap (by omega)
  have same := sameTracker_of_runOps betweenB runB
  have total := elapsed_of_serviced zero (prevTick ▸ start) betweenB keptB runB noWrap' (prevTick ▸ small)
  have canonical' : BufferInv t :=
    runOps_keeps exec_keeps_bufferInv run (exec_keeps_bufferInv captured canonical)
  obtain ⟨u, served', holds⟩ := holdsMessage_of_captured canonical' betweenC captured' lateRun
  obtain ⟨o, d, message, report⟩ := report_of_elapsed holds (same.prevTick.trans prevTick) total
  have count : t.pulses + 1#16 = s.pulses + 2#16 := by
    rw [same.pulses, pulses, BitVec.add_assoc]
    rfl
  exact ⟨u, o, d, served', count ▸ message, report⟩

end Sys2Proof.Proofs

/-! PROOFS. Unending executions (60_exceptions.md section 4): what weak fairness and the serializer's offers promise
(R188). -/

namespace Sys2Proof.Proofs

open Sys2Proof.Machine Sys2Proof.Safety

section

variable {ops : Nat → Option Instr} {st : Nat → State}

/-! ## A stretch of an execution -/

theorem state_of_idle (execution : IsExecution ops st) {n : Nat} (idle : ops n = none) : st (n + 1) = st n := by
  have moment := execution n
  rwa [idle] at moment

theorem exec_of_moment (execution : IsExecution ops st) {n : Nat} {i : Instr} (taken : ops n = some i) :
    exec i (st n) = .next (st (n + 1)) := by
  have moment := execution n
  rwa [taken] at moment

/-- What each operation of a stretch keeps, idling with it, holds at its end. -/
theorem execution_keeps {P : State → Prop} (execution : IsExecution ops st) {n m : Nat} (later : n ≤ m)
    (kept : ∀ j, n ≤ j → j < m → ∀ i, ops j = some i → ∀ {s t}, exec i s = .next t → P s → P t) (start : P (st n)) :
    P (st m) := by
  induction m, later using Nat.le_induction with
  | base => exact start
  | succ m later ih =>
    have before := ih (fun j from_n to_m => kept j from_n (Nat.lt_succ_of_lt to_m))
    cases taken : ops m with
    | none => rwa [state_of_idle execution taken]
    | some i => exact kept m later (Nat.lt_succ_self m) i taken (exec_of_moment execution taken) before

/-! ## A pending Edge -/

/-- Only its delivery and `RESET` clear the pending flag of an Edge (R183). -/
theorem exec_keeps_edgePending {i : Instr} {s t : State} (h : exec i s = .next t) (notReset : i ≠ .reset)
    (notEdge : i ≠ .svcEdge) (pending : s.edgePending = true) : t.edgePending = true := by
  cases exec_eq_next.mp h with
  | reset => exact absurd rfl notReset
  | svcEdge => exact absurd rfl notEdge
  | fall => rfl
  | tick | svcOvf | dropped | disarms | sends => exact pending

/-! ## The bytes still to send -/

theorem unsentBytes_of_disarmed {s : State} (disarmed : s.armed = false) : unsentBytes s = [] := by
  simp [unsentBytes, disarmed]

/-- The bytes from the cursor on, the first of them apart. -/
theorem drop_cursor_bufBytes {s : State} (inside : s.cursor.toNat ≤ 21) :
    (bufBytes s.buf Config.bufLen).drop s.cursor.toNat =
      bufByte s s.cursor.toNat :: (bufBytes s.buf Config.bufLen).drop (s.cursor.toNat + 1) := by
  have within : s.cursor.toNat < (bufBytes s.buf Config.bufLen).length := by
    rw [bufBytes_length]
    exact Nat.lt_succ_of_le inside
  rw [List.drop_eq_getElem_cons within, bufBytes_getElem]
  rfl

theorem unsentBytes_of_eq_term {s : State} (inside : s.cursor.toNat ≤ 21)
    (terminator : bufByte s s.cursor.toNat = Config.term) : unsentBytes s = [] := by
  simp [unsentBytes, drop_cursor_bufBytes inside, terminator]

/-- A transmit-ready event sends the first of them. -/
theorem unsentBytes_of_ne_term {s : State} (armed : s.armed = true) (inside : s.cursor.toNat ≤ 21)
    (byte : bufByte s s.cursor.toNat ≠ Config.term) :
    unsentBytes s = bufByte s s.cursor.toNat :: unsentBytes (s.send (bufByte s s.cursor.toNat)).advanceCursor := by
  have cursor : (s.send (bufByte s s.cursor.toNat)).advanceCursor.cursor.toNat = s.cursor.toNat + 1 :=
    advanceCursor_cursor_toNat inside
  rw [unsentBytes, unsentBytes, cursor, drop_cursor_bufBytes inside]
  simp [armed, byte]

theorem unsentBytes_of_sameTransmitter {s t : State} (same : SameTransmitter s t) : unsentBytes t = unsentBytes s := by
  obtain ⟨buf, cursor, armed, -⟩ := same
  rw [unsentBytes, unsentBytes, buf, cursor, armed]

/-! ## The drain of an unending execution -/

/-- Until the serializer offers, the Transmitter does not move. -/
theorem sameTransmitter_of_stretch (execution : IsExecution ops st) {n m : Nat} (later : n ≤ m)
    (quiet : ∀ j, n ≤ j → ops j ≠ some .svcEdge ∧ ops j ≠ some .reset)
    (noOffer : ∀ j, n ≤ j → j < m → ops j ≠ some .txrdy) : SameTransmitter (st n) (st m) := by
  refine execution_keeps (P := SameTransmitter (st n)) execution later (fun j from_n to_m i taken _ _ h same => ?_)
    (sameTransmitter_refl _)
  obtain ⟨notEdge, notReset⟩ := quiet j from_n
  exact sameTransmitter_trans same (sameTransmitter_of_exec h (fun reset => notReset (reset ▸ taken))
    (fun edge => notEdge (edge ▸ taken)) (fun txrdy => noOffer j from_n to_m (txrdy ▸ taken)))

/-- To an armed Transmitter an offer comes, and the first one finds it as it was. -/
theorem exists_first_offer (execution : IsExecution ops st) (offering : SerializerKeepsOffering ops st) {n : Nat}
    (quiet : ∀ j, n ≤ j → ops j ≠ some .svcEdge ∧ ops j ≠ some .reset) (armed : (st n).armed = true) :
    ∃ m, n ≤ m ∧ ops m = some .txrdy ∧ SameTransmitter (st n) (st m) := by
  have offered : ∃ m, n ≤ m ∧ ops m = some .txrdy := by
    by_contra never
    have noOffer (j : Nat) (from_n : n ≤ j) : ops j ≠ some .txrdy := fun taken => never ⟨j, from_n, taken⟩
    refine never (offering n fun m later => ?_)
    obtain ⟨-, -, same, -⟩ := sameTransmitter_of_stretch execution later quiet (fun j from_n _ => noOffer j from_n)
    exact same.trans armed
  obtain ⟨later, taken⟩ := Nat.find_spec offered
  refine ⟨Nat.find offered, later, taken, sameTransmitter_of_stretch execution later quiet fun j from_n first => ?_⟩
  exact fun earlier => Nat.find_min offered first ⟨from_n, earlier⟩

theorem inv_of_execution (execution : IsExecution ops st) {n m : Nat} (later : n ≤ m) (invariant : Inv (st n)) :
    Inv (st m) :=
  execution_keeps execution later (fun _ _ _ _ _ _ _ h => exec_keeps_inv h) invariant

/-- What the first offer to an armed Transmitter does: the drain ends, or the first of the unsent bytes is sent. -/
theorem exists_offer_taken (execution : IsExecution ops st) (offering : SerializerKeepsOffering ops st) {n : Nat}
    (invariant : Inv (st n)) (quiet : ∀ j, n ≤ j → ops j ≠ some .svcEdge ∧ ops j ≠ some .reset)
    (armed : (st n).armed = true) :
    ∃ m, n ≤ m ∧
      ((st m).armed = false ∧ (st m).cursor = 0#5 ∧ (st m).wire = (st n).wire ∧ unsentBytes (st n) = [] ∨
        ∃ b, (st m).wire = (st n).wire ++ [b] ∧ unsentBytes (st n) = b :: unsentBytes (st m)) := by
  obtain ⟨m, later, taken, same⟩ := exists_first_offer execution offering quiet armed
  obtain ⟨-, terminatorInv, -, -⟩ := inv_of_execution execution later invariant
  have inside : (st m).cursor.toNat ≤ 21 := cursor_le_of_terminatorInv terminatorInv
  have applied := exec_of_moment execution taken
  obtain ⟨-, -, armed_same, wire_same⟩ := id same
  have stillArmed : (st m).armed = true := armed_same.trans armed
  rw [← unsentBytes_of_sameTransmitter same, ← wire_same]
  refine ⟨m + 1, Nat.le_succ_of_le later, ?_⟩
  by_cases terminator : bufByte (st m) (st m).cursor.toNat = Config.term
  · have ended : (st m).disarm = st (m + 1) :=
      Host.Outcome.next.inj ((exec_txrdy_of_eq_term stillArmed inside terminator).symm.trans applied)
    rw [← ended]
    exact .inl ⟨rfl, rfl, rfl, unsentBytes_of_eq_term inside terminator⟩
  · have advanced : ((st m).send (bufByte (st m) (st m).cursor.toNat)).advanceCursor = st (m + 1) :=
      Host.Outcome.next.inj ((exec_txrdy_of_ne_term stillArmed inside terminator).symm.trans applied)
    rw [← advanced]
    exact .inr ⟨_, rfl, unsentBytes_of_ne_term stillArmed inside terminator⟩

/-- The drain, by induction on the bytes still to send. -/
theorem exists_drained (execution : IsExecution ops st) (offering : SerializerKeepsOffering ops st) {n : Nat}
    (invariant : Inv (st n)) (quiet : ∀ j, n ≤ j → ops j ≠ some .svcEdge ∧ ops j ≠ some .reset) :
    ∃ m, n ≤ m ∧ (st m).armed = false ∧ (st m).cursor = 0#5 ∧ (st m).wire = (st n).wire ++ unsentBytes (st n) := by
  induction unsent : unsentBytes (st n) generalizing n with
  | nil =>
    rw [List.append_nil]
    cases armed : (st n).armed with
    | false =>
      obtain ⟨-, -, rewound, -⟩ := invariant
      exact ⟨n, Nat.le_refl n, armed, rewound armed, rfl⟩
    | true =>
      obtain ⟨m, later, ⟨disarmed, cursor, wire, -⟩ | ⟨b, -, more⟩⟩ :=
        exists_offer_taken execution offering invariant quiet armed
      · exact ⟨m, later, disarmed, cursor, wire⟩
      · cases unsent.symm.trans more
  | cons b rest ih =>
    cases armed : (st n).armed with
    | false => cases unsent.symm.trans (unsentBytes_of_disarmed armed)
    | true =>
      obtain ⟨m, later, ⟨-, -, -, done⟩ | ⟨b', wire, more⟩⟩ :=
        exists_offer_taken execution offering invariant quiet armed
      · cases unsent.symm.trans done
      · obtain ⟨rfl, tail⟩ := List.cons.inj (unsent.symm.trans more)
        obtain ⟨m', later', disarmed, cursor, wire'⟩ := ih (inv_of_execution execution later invariant)
          (fun j from_m => quiet j (Nat.le_trans later from_m)) tail.symm
        refine ⟨m', Nat.le_trans later later', disarmed, cursor, ?_⟩
        rw [wire', wire, List.append_assoc, List.singleton_append]

end

/-! ## The statements -/

/-- Settles O58: an Edge neither delivered nor discarded stays pending, so its service stays enabled and is taken. -/
theorem fairExecutionsDeliverEveryPendingEdge : Obligations.FairExecutionsDeliverEveryPendingEdge := by
  unfold Obligations.FairExecutionsDeliverEveryPendingEdge
  intro ops st n execution fair pending
  by_contra never
  have neither (m : Nat) (later : n ≤ m) : ops m ≠ some .svcEdge ∧ ops m ≠ some .reset :=
    not_or.mp fun taken => never ⟨m, later, taken⟩
  have stays (m : Nat) (later : n ≤ m) : enabled .svcEdge (st m) = true := by
    refine execution_keeps (P := fun s => s.edgePending = true) execution later
      (fun j from_n _ i taken _ _ h => ?_) pending
    obtain ⟨notEdge, notReset⟩ := neither j from_n
    exact exec_keeps_edgePending h (fun reset => notReset (reset ▸ taken)) (fun edge => notEdge (edge ▸ taken))
  obtain ⟨m, later, taken⟩ := fair n stays
  exact (neither m later).1 taken

/-- Settles O59: either a `RESET` comes, or the drain runs to its end. -/
theorem offeredExecutionsDrainTheLastMessage : Obligations.OfferedExecutionsDrainTheLastMessage := by
  unfold Obligations.OfferedExecutionsDrainTheLastMessage
  intro ops st n execution offering invariant noEdge
  by_cases abandoned : ∃ m, n ≤ m ∧ ops m = some .reset
  · exact .inl abandoned
  · exact .inr (exists_drained execution offering invariant
      fun j from_n => ⟨noEdge j from_n, fun reset => abandoned ⟨j, from_n, reset⟩⟩)

end Sys2Proof.Proofs
